-- ==== Sys2Proof/Word.lean ====
section
/-! DEFINITION. The word types of the machine: bytes of the address spaces (R33), command words (R51), response words (R62). -/

namespace Sys2Proof

/-- One byte of an address space (R33) and one byte of a transport payload (R67). -/
abbrev Byte := BitVec 8

/-- A 16-bit operand field (R52). -/
abbrev Half := BitVec 16

/-- A response word (R62). -/
abbrev Word32 := BitVec 32

/-- A command word or an STR payload word (R51, R59). -/
abbrev Word64 := BitVec 64

end Sys2Proof
end

