-- ==== Sys2Proof/Config.lean ====
section
/-! DEFINITION. The parameters of the block (R5 to R10), the constraints on them (R7 to R10, R12), and the free values of the model. -/

namespace Sys2Proof

/-- One glyph of the font: five column bytes, column 0 the leftmost (R8, R88). -/
abbrev Glyph := Vector Byte 5

/-- How FLUSH sends a page's bytes (R10). -/
inductive XferMode where
  | bulk
  | single
  deriving DecidableEq, Repr

/-- The implementation parameters, fixed when the block is built (R5, R8, R9, R10).
`devAddr` below 128 and `timeout` below 2^32 (R5, R12) hold by their types.
`GLYPH_COUNT` is the length of `font`, `INIT_LEN` the length of `initSeq`. -/
structure Config where
  width    : Nat
  height   : Nat
  devAddr  : BitVec 7
  timeout  : BitVec 32
  font     : List Glyph
  initSeq  : List Byte
  colLo    : Byte
  colHi    : Byte
  xferMode : XferMode
  deriving DecidableEq, Repr

/-- PAGES = HEIGHT / 8 (R6). -/
def Config.pages (c : Config) : Nat := c.height / 8

/-- FB_SIZE = WIDTH * HEIGHT / 8 (R6). -/
def Config.fbSize (c : Config) : Nat := c.width * c.height / 8

/-- The geometry constraints of R7. -/
def Config.geometryOk (c : Config) : Bool :=
  decide (1 ≤ c.width ∧ c.width ≤ 32767 ∧ 8 ≤ c.height ∧ c.height ≤ 128 ∧ c.height % 8 = 0)

/-- A configuration that breaks none of R7, R8, R9, R10; any other is a configuration error (R12). -/
def Config.valid (c : Config) : Bool :=
  c.geometryOk
    && decide (1 ≤ c.font.length ∧ c.font.length ≤ 96)
    && decide (1 ≤ c.initSeq.length ∧ c.initSeq.length ≤ 255)
    && decide (c.colLo = 0x01#8 ∨ c.colLo = 0x02#8)

/-! Free values: constants with no body, so that nothing proved depends on what they are. -/

/-- The framebuffer draw: what byte `a` holds after reset number `n` (R31, U8; log entry 3). -/
opaque Config.fbDraw (n a : Nat) : Byte

/-- The `n`-th transport result that State does not list (R69, R96; log entry 6). -/
opaque Config.trResult (n : Nat) : BitVec 2

/-- What loop counter `which` is left at, the `n`-th time one is left (U9; log entry 5). -/
opaque Config.counterAfter (n which : Nat) : Nat

/-- The bitmap of glyph `g` in the reset machine's font, which no source gives (D11, N1; log entry 2). -/
opaque Config.glyphAt (g : Nat) : Glyph

end Sys2Proof
end

