-- ==== Sys2Proof/Machine/Defaults.lean ====
section
/-! DEFINITION. The configuration of the reset machine: the spec's defaults (R5, R10), G3's INIT_SEQ, and a free font. -/

namespace Sys2Proof.Machine

/-- The 23-byte list of G3, "given only so a model has something to run" (D13; log entry 2). -/
def defaultInitSeq : List Byte :=
  [ 0xAE#8, 0xD5#8, 0x80#8, 0xA8#8, 0x3F#8, 0xD3#8, 0x00#8, 0x40#8, 0x8D#8, 0x14#8, 0x20#8, 0x00#8
  , 0xA1#8, 0xC8#8, 0xDA#8, 0x12#8, 0x81#8, 0xCF#8, 0xD9#8, 0xF1#8, 0xDB#8, 0x40#8, 0xAF#8 ]

/-- 59 glyphs, space to Z (R93), each a free value (log entry 2). -/
def defaultFont : List Glyph := (List.range 59).map Config.glyphAt

/-- The defaults of R5 and R10. -/
def defaultConfig : Config where
  width := 128
  height := 64
  devAddr := 0x3C#7
  timeout := 1000#32
  font := defaultFont
  initSeq := defaultInitSeq
  colLo := 0x02#8
  colHi := 0x10#8
  xferMode := .bulk

end Sys2Proof.Machine
end

