-- ==== Sys2Proof/Machine/Memory.lean ====
section
/-! DEFINITION. A byte memory as plain data: a list of cells in one canonical form, with reads and writes of one byte (R33, R42). -/

namespace Sys2Proof.Machine

/-- A memory: cells (address, byte) with strictly rising addresses; an address it does not list reads as 0x00. -/
abbrev Memory := List Host.Cell

/-- The byte every unlisted address reads as. It is how the list is kept, no claim about the hardware:
the framebuffer of State.reset lists its draw (log entry 3). -/
def Memory.unlisted : Byte := 0x00#8

/-- `MemRead(a, 1)` (R143). -/
def Memory.read : Memory → Nat → Byte
  | [], _ => Memory.unlisted
  | (b, v) :: rest, a => if a = b then v else Memory.read rest a

/-- Put a cell at its place, dropping it where the byte is what an unlisted address reads as. -/
def Memory.put (a : Nat) (v : Byte) (rest : Memory) : Memory :=
  if v = Memory.unlisted then rest else (a, v) :: rest

/-- `MemWrite(a, 1, v)` (R143). -/
def Memory.write : Memory → Nat → Byte → Memory
  | [], a, v => Memory.put a v []
  | (b, u) :: rest, a, v =>
    if a < b then Memory.put a v ((b, u) :: rest)
    else if a = b then Memory.put a v rest
    else (b, u) :: Memory.write rest a v

/-- The memory of `size` bytes whose byte `a` is `byteAt a`. -/
def Memory.ofBytes (size : Nat) (byteAt : Nat → Byte) : Memory :=
  (List.range size).filterMap fun a => if byteAt a = Memory.unlisted then none else some (a, byteAt a)

/-- The bytes at `first`, `first + 1`, ..., `first + count - 1`. -/
def Memory.slice (m : Memory) (first count : Nat) : List Byte :=
  (List.range count).map fun c => m.read (first + c)

/-- The canonical form, from address `low` up to but not including `size`:
strictly rising addresses and no byte that an unlisted address reads as. -/
def Memory.canonicalFrom (size : Nat) : Nat → Memory → Bool
  | _, [] => true
  | low, (a, v) :: rest =>
    decide (low ≤ a ∧ a < size ∧ v ≠ Memory.unlisted) && Memory.canonicalFrom size (a + 1) rest

/-- The canonical form of a memory of `size` bytes. -/
def Memory.wf (size : Nat) (m : Memory) : Bool := Memory.canonicalFrom size 0 m

end Sys2Proof.Machine
end

