-- ==== Sys2Proof/Machine/State.lean ====
section
/-! DEFINITION. The state of the machine as plain data (R15), its stops, and State.reset (R31, R127). -/

namespace Sys2Proof.Machine

/-- DCS, the display controller state (R21). -/
inductive Dcs where
  | uninit
  | active
  deriving DecidableEq, Repr

/-- A transport request (R67). Its device address and timeout are the configuration's. -/
inductive Request where
  /-- `Cmd(b)` -/
  | cmd (b : Byte)
  /-- `Data(bytes)` -/
  | data (bytes : List Byte)
  deriving DecidableEq, Repr

/-- What happens while FBA waits for the result of a request (R96). -/
inductive TrEvent where
  /-- the transport gives a result, as the 2-bit code of R69: 0 is OK, 1 FAIL, 2 TIMEOUT, 3 reserved -/
  | result (code : BitVec 2)
  /-- `rst` is asserted before any result comes (R128) -/
  | rst
  /-- neither ever comes (R120) -/
  | silent
  deriving DecidableEq, Repr

/-- The working counters (R18). `f` is the failure counter F of INIT and FLUSH (R96). -/
structure Counters where
  k : Nat
  s : Nat
  i : Nat
  j : Nat
  p : Nat
  c : Nat
  f : Nat
  deriving DecidableEq, Repr

/-- The state: FBA's own (R15, R30), the configuration it was built with (R5 to R10), and its channels and pins (R70). -/
structure State where
  /-- the parameters; no step changes them (R25; log entry 1) -/
  cfg : Config
  /-- FB, the framebuffer (R26) -/
  fb : Memory
  /-- STATUS bit 0 (R21) -/
  dcs : Dcs
  /-- STATUS bit 1, sticky (R22) -/
  busErr : Bool
  /-- STATUS bit 2, sticky (R23) -/
  ill : Bool
  /-- operand register X (R16) -/
  x : Half
  /-- operand register Y (R16) -/
  y : Half
  /-- operand register LEN (R16) -/
  len : Half
  /-- operand register ARG (R16) -/
  arg : Byte
  /-- the working counters (R18) -/
  ctr : Counters
  /-- TXT, the text buffer, 255 bytes (R28) -/
  txt : List Byte
  /-- the words accepted of a command not yet complete: an STR header and the payload so far (R61) -/
  pending : List Word64
  /-- the transport request sent and not yet answered (R30) -/
  outstanding : Option Request
  /-- input `rst` between two commands, while a payload is collected, or while a response is untaken (R70, R127;
  log entry 11) -/
  rstPin : Bool
  /-- input `rst` after the next command is accepted and before its response: it is abandoned (R128; log entry 11) -/
  rstInCmd : Bool
  /-- the words the host offers, the next one first (R51, R70) -/
  cmdIn : List Word64
  /-- the response word offered and not yet taken: `rsp_valid` and `rsp_word` (R62, R70) -/
  rsp : Option Word32
  /-- input `rsp_ready`: the host accepts a response word (R70) -/
  rspReady : Bool
  /-- the response words the host has taken, oldest first (R62; log entry 10) -/
  rspOut : List Word32
  /-- the transport requests sent, oldest first (R49, R67) -/
  txOut : List Request
  /-- what the transport will answer to the next requests, in request order (R69, R96); after these, free results -/
  trIn : List TrEvent
  /-- index of the next free transport result (the model's own; log entry 6) -/
  trDraw : Nat
  /-- index of the next free counter value (the model's own; log entry 5) -/
  ctrDraw : Nat
  /-- number of resets since State.reset (the model's own; log entry 3) -/
  resets : Nat
  deriving DecidableEq, Repr

/-- Why the machine stops. -/
inductive Fault where
  /-- Raised by INIT and FLUSH when the transport never answers a request and no reset comes: FBA waits for ever and
  gives no response (R120, U10 "stuck"). Safe: the hardware makes no further step either. -/
  | transportSilent
  deriving DecidableEq, Repr

/-- Why the model gives a state no step. -/
inductive Refusal where
  /-- Raised by an arm of exec whose instruction has no meaning yet; no arm is left so. Safe. -/
  | notModelled (mnemonic : String)
  /-- Raised by step when the configuration breaks R7, R8, R9 or R10: "such a block is not built, and a model refuses
  to construct a machine from such a configuration" (R12; log entry 13). Safe. -/
  | configurationError
  deriving DecidableEq, Repr

/-- The counters after reset: R31 leaves them unspecified, DESIGN CHOICE 0 (log entry 4). -/
def Counters.reset : Counters := ⟨0, 0, 0, 0, 0, 0, 0⟩

/-- TXT after reset, 255 bytes (R28): R31 leaves them unspecified, DESIGN CHOICE 0 (log entry 4). -/
def resetTxt : List Byte := List.replicate 255 0#8

/-- The framebuffer after reset number `n`: every byte a free draw (R31; log entry 3). -/
def resetFb (cfg : Config) (n : Nat) : Memory := Memory.ofBytes cfg.fbSize (Config.fbDraw n)

/-- The machine right after reset (R31, R127), with the default configuration and nothing offered on any channel.
The host is ready to take a response (an input; log entry 10). -/
def State.reset : State where
  cfg := defaultConfig
  fb := resetFb defaultConfig 0
  dcs := .uninit
  busErr := false
  ill := false
  x := 0#16
  y := 0#16
  len := 0#16
  arg := 0#8
  ctr := Counters.reset
  txt := resetTxt
  pending := []
  outstanding := none
  rstPin := false
  rstInCmd := false
  cmdIn := []
  rsp := none
  rspReady := true
  rspOut := []
  txOut := []
  trIn := []
  trDraw := 0
  ctrDraw := 0
  resets := 0

end Sys2Proof.Machine
end

