-- ==== Sys2Proof/Machine/Flags.lean ====
section
/-! DEFINITION. The STATUS register (R20), the writers of its bits (R21 to R23), and the response word (R62, R63). -/

namespace Sys2Proof.Machine

/-- DCS as a bit: 0 is UNINIT, 1 is ACTIVE (R20). -/
def Dcs.bit : Dcs → BitVec 1
  | .uninit => 0#1
  | .active => 1#1

/-- The STATUS register: bit 2 ILL, bit 1 BUSERR, bit 0 DCS, bits 15:3 zero (R20, R109). -/
def State.statusWord (s : State) : BitVec 16 :=
  0#13 ++ (BitVec.ofBool s.ill ++ (BitVec.ofBool s.busErr ++ s.dcs.bit))

/-- `DCS <- ACTIVE` (R100). -/
def State.setActive (s : State) : State := { s with dcs := .active }

/-- `ILL <- 1` (R115). -/
def State.setIll (s : State) : State := { s with ill := true }

/-- `if F != 0 then BUSERR <- 1` (R22, R100, R104). -/
def State.noteFailures (s : State) : State := { s with busErr := s.busErr || s.ctr.f != 0 }

/-- The result codes (R63). -/
inductive RspCode where
  | ok
  | illegal
  | busFail
  deriving DecidableEq, Repr

/-- The CODE field of a result code (R63). -/
def RspCode.bits : RspCode → BitVec 4
  | .ok => 0#4
  | .illegal => 1#4
  | .busFail => 2#4

/-- The response word: CODE in 31:28, zeros in 27:16, DATA in 15:0 (R62). -/
def responseWord (code : RspCode) (data : BitVec 16) : Word32 :=
  code.bits ++ (0#12 ++ data)

/-- One more result of a transaction counted in F: everything but OK is a failure, and F saturates (R69, R96). -/
def countResult (code : BitVec 2) (f : Nat) : Nat :=
  if code = 0#2 then f else min (f + 1) 65535

end Sys2Proof.Machine
end

