-- ==== Sys2Proof/Syntax.lean ====
section
/-! DEFINITION. The ten commands (R14, R54), one constructor per row of spec/opcode_table.json. -/

namespace Sys2Proof

/-- A command with the operand fields its row uses (R54, R55).
Coordinates are the raw 16-bit fields; R53 reads them as two's complement (Machine/Operands.lean). -/
inductive Instr where
  /-- CLEAR, R75. -/
  | clear
  /-- SETPX x, y, on, R76. -/
  | setpx (x y : Half) (on : Bool)
  /-- GETPX x, y, R77. -/
  | getpx (x y : Half)
  /-- HLINE x, y, len, on, R81. -/
  | hline (x y len : Half) (on : Bool)
  /-- VLINE x, y, len, on, R82. -/
  | vline (x y len : Half) (on : Bool)
  /-- CHAR x, y, ch, R89. -/
  | char (x y : Half) (ch : Byte)
  /-- STR x, y with the character count `n` of the header and the payload words after it, R58, R59, R90. -/
  | str (x y : Half) (n : Byte) (payload : List Word64)
  /-- INIT, R100. -/
  | init
  /-- FLUSH, R104. -/
  | flush
  /-- STATUS, R109. -/
  | status
  deriving DecidableEq, Repr

end Sys2Proof
end

