-- ==== Sys2Proof/Machine/Operands.lean ====
section
/-! DEFINITION. Operand forms: sign extension of coordinates (R53), the glyph index (R86), and the text of an STR payload (R59). -/

namespace Sys2Proof.Machine

/-- A coordinate operand: `sext_16` of the field, an integer in -32768 .. 32767 (R53). -/
def coord (v : Half) : Int := v.toInt

/-- A length operand: `zext_16` of the field (R53, R83). -/
def lineLength (v : Half) : Nat := v.toNat

/-- The ARG register of a command whose operand is `on` (R56): bit 0, the rest zero. -/
def argOfOn (on : Bool) : Byte := if on then 1#8 else 0#8

/-- GlyphIndex(ch) = ch - 32, on integers (R86). -/
def glyphIndex (ch : Byte) : Int := (ch.toNat : Int) - 32

/-- NW = ceil(N / 8), the number of payload words of an STR with count `n` (R59). -/
def payloadWords (n : Byte) : Nat := (n.toNat + 7) / 8

/-- Byte `m` of a payload, the lowest byte of each word first (R59).
A word that is not there reads as 0: no decoded STR lacks one. -/
def payloadByte (payload : List Word64) (m : Nat) : Byte :=
  (payload.getD (m / 8) 0#64).extractLsb' (8 * (m % 8)) 8

/-- The text of an STR: character `8k + j` is byte `j` of payload word `k` (R59). -/
def textOf (n : Byte) (payload : List Word64) : List Byte :=
  (List.range n.toNat).map (payloadByte payload)

/-- The characters of a text that have arrived while its payload is still incomplete (R59, R90). -/
def receivedText (n : Byte) (payload : List Word64) : List Byte :=
  (textOf n payload).take (8 * payload.length)

/-- Some padding byte of the last payload word is not zero (R59, R90's `bad`). -/
def badPadding (n : Byte) (payload : List Word64) : Bool :=
  (List.range (8 * payloadWords n)).any fun m => decide (n.toNat ≤ m) && payloadByte payload m != 0#8

end Sys2Proof.Machine
end

