-- ==== Sys2Proof/Machine/Ops.lean ====
section
/-! DEFINITION. The shared operations: the pixel mapper (R35, R36, R73, R74), responding (R62), `raise Illegal` (R115), Transact (R96), reset (R127). -/

namespace Sys2Proof.Machine

/-! The pixel mapper. Coordinates are exact integers (R78). -/

/-- InBounds(x, y) (R35). -/
def inBounds (c : Config) (x y : Int) : Bool :=
  decide (0 ≤ x ∧ x < c.width ∧ 0 ≤ y ∧ y < c.height)

/-- Page(y) = y / 8 (R36). -/
def page (y : Int) : Nat := (y / 8).toNat

/-- ByteIndex(x, y) = Page(y) * WIDTH + x (R36); below FB_SIZE for an in-bounds pixel (R37 item 1). -/
def byteIndex (c : Config) (x y : Int) : Nat := page y * c.width + x.toNat

/-- BitNo(y) = y mod 8 (R36). -/
def bitNo (y : Int) : Nat := (y % 8).toNat

/-- The pixel that bit `b` of byte `a` is, the inverse of (ByteIndex, BitNo): x = a mod WIDTH, y = 8 * (a / WIDTH) + b
(R37 item 2). -/
def pixelOf (c : Config) (a b : Nat) : Int × Int := ((a % c.width : Nat), (8 * (a / c.width) + b : Nat))

/-- One bit of a byte set or cleared by the mask `1 << n` (R38, R73). -/
def putBit (old : Byte) (n : Nat) (on : Bool) : Byte :=
  if on then old ||| (1#8 <<< n) else old &&& (0xFF#8 ^^^ (1#8 <<< n))

/-- SetPixel(x, y, on) on the framebuffer: a read-modify-write of one byte, nothing out of bounds (R73). -/
def setPixel (c : Config) (x y : Int) (on : Bool) (m : Memory) : Memory :=
  if inBounds c x y then
    m.write (byteIndex c x y) (putBit (m.read (byteIndex c x y)) (bitNo y) on)
  else m

/-- GetPixel(x, y): the pixel's bit, 0 out of bounds (R74). -/
def getPixel (c : Config) (m : Memory) (x y : Int) : Bool :=
  inBounds c x y && (m.read (byteIndex c x y)).getLsbD (bitNo y)

/-! Accepting a command and answering it. -/

/-- Acceptance of a command word: its fields go to the operand registers (R16, R53).
They stay there until the next command word is accepted (R16), where U9 leaves them any value (log entry 16). -/
def State.loadOperands (s : State) (x y len : Half) (arg : Byte) : State :=
  { s with x := x, y := y, len := len, arg := arg }

/-- Characters of an STR payload copied to `TXT[0 ..]`, the rest of TXT kept (R28, R90).
They stay there until the next STR (R28), where U9 leaves TXT any value (log entry 16). -/
def State.loadText (s : State) (text : List Byte) : State :=
  { s with txt := text ++ s.txt.drop text.length }

/-- `Respond(code, data)`: the response word is offered, and stays so until the host takes it (R62, R70). -/
def State.respond (s : State) (code : RspCode) (data : BitVec 16) : State :=
  { s with rsp := some (responseWord code data) }

/-- The transfer of the response word on offer, if there is one (R70). -/
def State.takeResponse (s : State) : State := { s with rsp := none, rspOut := s.rspOut ++ s.rsp.toList }

/-- `raise Illegal`, the one exceptional entry of this machine: ILL set, nothing else, response ILLEGAL (R115). -/
def State.raiseIllegal (s : State) : State := s.setIll.respond .illegal 0#16

/-! What a command leaves in the loop counters it used: a free value in the counter's range (R18, U9; log entry 5).
F keeps its count, and a counter the command does not use its value (log entry 5). -/

/-- The free value for counter number `which`, below `range`. -/
def State.freeCounter (s : State) (which range : Nat) : Nat := Config.counterAfter s.ctrDraw which % range

/-- K is left free (HLINE, VLINE, INIT). -/
def State.leaveK (s : State) : State :=
  { s with ctr := { s.ctr with k := s.freeCounter 0 65536 }, ctrDraw := s.ctrDraw + 1 }

/-- I and J are left free (CHAR). -/
def State.leaveIJ (s : State) : State :=
  { s with ctr := { s.ctr with i := s.freeCounter 2 6, j := s.freeCounter 3 8 }, ctrDraw := s.ctrDraw + 1 }

/-- S, I and J are left free (STR). -/
def State.leaveSIJ (s : State) : State :=
  { s with
    ctr := { s.ctr with s := s.freeCounter 1 256, i := s.freeCounter 2 6, j := s.freeCounter 3 8 }
    ctrDraw := s.ctrDraw + 1 }

/-- P and C are left free (FLUSH). -/
def State.leavePC (s : State) : State :=
  { s with
    ctr := { s.ctr with p := s.freeCounter 4 s.cfg.pages, c := s.freeCounter 5 s.cfg.width }
    ctrDraw := s.ctrDraw + 1 }

/-! Reset. -/

/-- A rising edge of `clk` with `rst` = 1 (R127): FBA takes the reset state of R31.
A command in progress is abandoned without a response, and a response not yet taken is dropped (R127, R128); the
parameters and what the channels have already carried stay, and so do the words the host still offers. -/
def State.applyReset (s : State) : State :=
  { s with
    fb := resetFb s.cfg (s.resets + 1)
    dcs := .uninit
    busErr := false
    ill := false
    x := 0#16
    y := 0#16
    len := 0#16
    arg := 0#8
    ctr := Counters.reset
    txt := resetTxt
    pending := []
    outstanding := none
    rsp := none
    rstPin := false
    resets := s.resets + 1 }

/-- A command accepted and then met by `rst` before its response (R128): whatever it had drawn, FB is unspecified
after the reset, so the reset state is all that is left of it (log entry 11). -/
def State.abandon (s : State) : State := { s.applyReset with rstInCmd := false }

/-! The transport. -/

/-- How a wait for the transport ends. -/
inductive Waited where
  /-- every request so far was answered -/
  | answered (s : State)
  /-- `rst` came first; the state after it (R128) -/
  | abandoned (s : State)
  /-- no result ever comes (R120) -/
  | hung
  deriving DecidableEq, Repr

/-- A request goes to the transport and is outstanding (R96). -/
def State.send (s : State) (req : Request) : State :=
  { s with outstanding := some req, txOut := s.txOut ++ [req] }

/-- Its result comes: counted in F, and used for nothing else (R96, R97). -/
def State.receive (s : State) (code : BitVec 2) : State :=
  { s with outstanding := none, ctr := { s.ctr with f := countResult code s.ctr.f } }

/-- `Transact(req)` (R96). The result is the next one State lists, or else a free one (R69; log entry 6). -/
def transact (req : Request) (s : State) : Waited :=
  match s.trIn with
  | [] => .answered ({ s.send req with trDraw := s.trDraw + 1 }.receive (Config.trResult s.trDraw))
  | .result code :: rest => .answered ({ s.send req with trIn := rest }.receive code)
  | .rst :: rest => .abandoned { s.send req with trIn := rest }.applyReset
  | .silent :: _ => .hung

/-- Requests one after the other, each after the result of the one before (R49). -/
def runRequests : List Request → State → Waited
  | [], s => .answered s
  | req :: reqs, s =>
    match transact req s with
    | .answered s' => runRequests reqs s'
    | .abandoned s' => .abandoned s'
    | .hung => .hung

/-- `F <- 0` (R100, R104). -/
def State.clearFailures (s : State) : State := { s with ctr := { s.ctr with f := 0 } }

/-- The end of INIT and FLUSH: BUSERR, then `OK` with 0 or `BUS_FAIL` with F (R100, R104, R64). -/
def State.finishTransfer (s : State) : State :=
  s.noteFailures.respond (if s.ctr.f = 0 then .ok else .busFail) (BitVec.ofNat 16 s.ctr.f)

/-- A command made of requests: F cleared, the requests in order, then its end. A reset abandons it with no response
(R128), a silent transport hangs it (R120). -/
def runTransfer (reqs : List Request) (finish : State → State) (s : State) : Host.Outcome State Fault Refusal :=
  match runRequests reqs s.clearFailures with
  | .answered s' => .next (finish s')
  | .abandoned s' => .next s'
  | .hung => .fault .transportSilent

end Sys2Proof.Machine
end

