-- ==== Sys2Proof/Machine/Framebuffer.lean ====
section
/-! DEFINITION. The framebuffer commands CLEAR, SETPX, GETPX (40_framebuffer.md). -/

namespace Sys2Proof.Machine

/-- Every byte of a framebuffer written with 0x00 (R75): nothing is left to list.
The order of R75's writes is not observable (log entry 9; the obligation ClearIsTheLoopOfWrites). -/
def clearFb (_c : Config) (_m : Memory) : Memory := []

/-- CLEAR (R75). -/
def execClear (s : State) : Host.Outcome State Fault Refusal :=
  .next ({ s.loadOperands 0#16 0#16 0#16 0#8 with fb := clearFb s.cfg s.fb }.respond .ok 0#16)

/-- SETPX (R76). -/
def execSetpx (x y : Half) (on : Bool) (s : State) : Host.Outcome State Fault Refusal :=
  .next ({ s.loadOperands x y 0#16 (argOfOn on) with
    fb := setPixel s.cfg (coord x) (coord y) on s.fb }.respond .ok 0#16)

/-- GETPX (R77). -/
def execGetpx (x y : Half) (s : State) : Host.Outcome State Fault Refusal :=
  .next ((s.loadOperands x y 0#16 0#8).respond .ok
    ((BitVec.ofBool (getPixel s.cfg s.fb (coord x) (coord y))).setWidth 16))

end Sys2Proof.Machine
end

