-- ==== Sys2Proof/Machine/Glyph.lean ====
section
/-! DEFINITION. The glyph rasterizer commands CHAR, STR (42_glyph_rasterizer.md). -/

namespace Sys2Proof.Machine

/-- The glyph of a character, none when HasGlyph is false: FONT is never read outside its table (R86). -/
def glyphOf (c : Config) (ch : Byte) : Option Glyph :=
  if 0 ≤ glyphIndex ch then c.font[(glyphIndex ch).toNat]? else none

/-- Column `i` of a cell: the glyph's byte for columns 0 to 4, the blank spacing column after them (R87, R88). -/
def glyphColumn (g : Glyph) (i : Nat) : Byte := if h : i < 5 then g[i] else 0x00#8

/-- One column of a cell: rows 0 to 7 at (x, y + J), row J the column byte's bit J (R87, R88). -/
def drawColumn (c : Config) (x y : Int) (col : Byte) (m : Memory) : Memory :=
  (List.range 8).foldl (fun (m : Memory) (j : Nat) => setPixel c x (y + (j : Int)) (col.getLsbD j) m) m

/-- DrawChar(x, y, ch): six columns, or nothing for a character without a glyph (R87). -/
def drawChar (c : Config) (x y : Int) (ch : Byte) (m : Memory) : Memory :=
  match glyphOf c ch with
  | none => m
  | some g => (List.range 6).foldl (fun (m : Memory) (i : Nat) => drawColumn c (x + (i : Int)) y (glyphColumn g i) m) m

/-- The drawing loop of STR from character `n` on: character S at x + 6 * S (R90). -/
def drawText (c : Config) (x y : Int) : Nat → List Byte → Memory → Memory
  | _, [], m => m
  | n, ch :: text, m => drawText c x y (n + 1) text (drawChar c (x + 6 * (n : Int)) y ch m)

/-- CHAR (R89). -/
def execChar (x y : Half) (ch : Byte) (s : State) : Host.Outcome State Fault Refusal :=
  .next ({ (s.loadOperands x y 0#16 ch).leaveIJ with
    fb := drawChar s.cfg (coord x) (coord y) ch s.fb }.respond .ok 0#16)

/-- STR (R90): the whole payload goes to TXT first; non-zero padding is then ILLEGAL and draws nothing (R115). -/
def strState (x y : Half) (n : Byte) (payload : List Word64) (s : State) : State :=
  let loaded := (s.loadOperands x y (n.setWidth 16) 0#8).loadText (textOf n payload)
  if badPadding n payload then loaded.raiseIllegal
  else { loaded.leaveSIJ with
    fb := drawText s.cfg (coord x) (coord y) 0 (textOf n payload) s.fb }.respond .ok 0#16

/-- STR (R90): every STR ends with a response, whatever its padding. -/
def execStr (x y : Half) (n : Byte) (payload : List Word64) (s : State) : Host.Outcome State Fault Refusal :=
  .next (strState x y n payload s)

end Sys2Proof.Machine
end

