-- ==== Sys2Proof/Machine/Primitive.lean ====
section
/-! DEFINITION. The primitive rasterizer commands HLINE, VLINE (41_primitive_rasterizer.md). -/

namespace Sys2Proof.Machine

/-- The loop of HLINE: K from 0 to `len - 1`, the pixel at (x + K, y) (R81). -/
def drawHline (c : Config) (x y : Int) (len : Nat) (on : Bool) (m : Memory) : Memory :=
  (List.range len).foldl (fun (m : Memory) (k : Nat) => setPixel c (x + (k : Int)) y on m) m

/-- The loop of VLINE: K from 0 to `len - 1`, the pixel at (x, y + K) (R82). -/
def drawVline (c : Config) (x y : Int) (len : Nat) (on : Bool) (m : Memory) : Memory :=
  (List.range len).foldl (fun (m : Memory) (k : Nat) => setPixel c x (y + (k : Int)) on m) m

/-- HLINE (R81). -/
def execHline (x y len : Half) (on : Bool) (s : State) : Host.Outcome State Fault Refusal :=
  .next ({ (s.loadOperands x y len (argOfOn on)).leaveK with
    fb := drawHline s.cfg (coord x) (coord y) (lineLength len) on s.fb }.respond .ok 0#16)

/-- VLINE (R82). -/
def execVline (x y len : Half) (on : Bool) (s : State) : Host.Outcome State Fault Refusal :=
  .next ({ (s.loadOperands x y len (argOfOn on)).leaveK with
    fb := drawVline s.cfg (coord x) (coord y) (lineLength len) on s.fb }.respond .ok 0#16)

end Sys2Proof.Machine
end

