-- ==== Sys2Proof/Machine/Sequencer.lean ====
section
/-! DEFINITION. The display page sequencer commands INIT, FLUSH, STATUS (43_display_sequencer.md). -/

namespace Sys2Proof.Machine

/-- The requests of INIT: one `Cmd` per byte of INIT_SEQ, in order (R100, R101). -/
def initRequests (c : Config) : List Request := c.initSeq.map .cmd

/-- The page command byte 0xB0 + p (R106). -/
def pageCommand (p : Nat) : Byte := BitVec.ofNat 8 (0xB0 + p)

/-- The data requests of a page: one of all its bytes, or one for each (R104, R110). -/
def dataRequests (mode : XferMode) (bytes : List Byte) : List Request :=
  match mode with
  | .bulk => [.data bytes]
  | .single => bytes.map fun b => .data [b]

/-- The requests of one page: its address, the two column commands, its WIDTH bytes from column 0 on (R103, R104). -/
def pageRequests (c : Config) (m : Memory) (p : Nat) : List Request :=
  [.cmd (pageCommand p), .cmd c.colLo, .cmd c.colHi]
    ++ dataRequests c.xferMode (m.slice (p * c.width) c.width)

/-- The requests of FLUSH: every page, 0 first (R104, R105). They depend on FB and the configuration alone, and FB
cannot change while they are sent (R45 item 4), so they are listed before the first is sent. -/
def flushRequests (c : Config) (m : Memory) : List Request :=
  (List.range c.pages).flatMap (pageRequests c m)

/-- INIT (R100, R102). -/
def execInit (s : State) : Host.Outcome State Fault Refusal :=
  runTransfer (initRequests s.cfg) (fun t => t.setActive.leaveK.finishTransfer) (s.loadOperands 0#16 0#16 0#16 0#8)

/-- FLUSH (R104, R107). -/
def execFlush (s : State) : Host.Outcome State Fault Refusal :=
  runTransfer (flushRequests s.cfg s.fb) (fun t => t.leavePC.finishTransfer) (s.loadOperands 0#16 0#16 0#16 0#8)

/-- STATUS (R109). -/
def execStatus (s : State) : Host.Outcome State Fault Refusal :=
  .next ((s.loadOperands 0#16 0#16 0#16 0#8).respond .ok s.statusWord)

end Sys2Proof.Machine
end

