-- ==== Sys2Proof/Machine/Dispatch.lean ====
section
/-! DEFINITION. One arm per command (R54). -/

namespace Sys2Proof.Machine

/-- The command `i` executed to completion (R14). -/
def exec (i : Instr) (s : State) : Host.Outcome State Fault Refusal :=
  match i with
  | .clear => Sys2Proof.Machine.execClear s
  | .setpx x y on => Sys2Proof.Machine.execSetpx x y on s
  | .getpx x y => Sys2Proof.Machine.execGetpx x y s
  | .hline x y len on => Sys2Proof.Machine.execHline x y len on s
  | .vline x y len on => Sys2Proof.Machine.execVline x y len on s
  | .char x y ch => Sys2Proof.Machine.execChar x y ch s
  | .str x y n payload => Sys2Proof.Machine.execStr x y n payload s
  | .init => Sys2Proof.Machine.execInit s
  | .flush => Sys2Proof.Machine.execFlush s
  | .status => Sys2Proof.Machine.execStatus s

end Sys2Proof.Machine
end

