-- ==== Sys2Proof/WellFormed.lean ====
section
/-! DEFINITION. When a term of Instr is a legal command (R14: operand ranges hold by type; R59: the payload's length and padding). -/

namespace Sys2Proof

/-- The payload of an STR has exactly `ceil(N / 8)` words (R59). -/
def Instr.framed : Instr → Bool
  | .clear => true
  | .setpx _ _ _ => true
  | .getpx _ _ => true
  | .hline _ _ _ _ => true
  | .vline _ _ _ _ => true
  | .char _ _ _ => true
  | .str _ _ n payload => payload.length == Machine.payloadWords n
  | .init => true
  | .flush => true
  | .status => true

/-- The padding of an STR is zero (R59); no other command has any. -/
def Instr.padded : Instr → Bool
  | .clear => true
  | .setpx _ _ _ => true
  | .getpx _ _ => true
  | .hline _ _ _ _ => true
  | .vline _ _ _ _ => true
  | .char _ _ _ => true
  | .str _ _ n payload => !Machine.badPadding n payload
  | .init => true
  | .flush => true
  | .status => true

/-- A legal command: framed, and with zero padding. A framed command with bad padding is one the decoder
still delivers, because R60 consumes its payload, and that R90 then answers ILLEGAL. -/
def Instr.wellFormed (i : Instr) : Bool := i.framed && i.padded

end Sys2Proof
end

