-- ==== Sys2Proof/Decode.lean ====
section
/-! DEFINITION. The decoder (R52 to R60, R65), the encoder written from the same tables (R52, R59), and the host's decodeTableWord. -/

namespace Sys2Proof

/-! Fields of a command word (R52). -/

/-- OPC, bits 63:56. -/
def opcField (w : Word64) : Byte := w.extractLsb' 56 8
/-- X, bits 55:40. -/
def xField (w : Word64) : Half := w.extractLsb' 40 16
/-- Y, bits 39:24. -/
def yField (w : Word64) : Half := w.extractLsb' 24 16
/-- LEN, bits 23:8. -/
def lenField (w : Word64) : Half := w.extractLsb' 8 16
/-- ARG, bits 7:0. -/
def argField (w : Word64) : Byte := w.extractLsb' 0 8
/-- The `on` operand, ARG[0] (R56). -/
def onField (w : Word64) : Bool := w.getLsbD 0
/-- The character count of an STR header, LEN[7:0] (R58). -/
def countField (w : Word64) : Byte := w.extractLsb' 8 8

/-- The ten opcodes (R54). -/
inductive Op where
  | clear | setpx | getpx | hline | vline | char | str | init | flush | status
  deriving DecidableEq, Repr

/-- One row of the opcode map: a word `w` is the row's when `w AND mask = value` (R55). -/
structure OpRow where
  op    : Op
  mask  : Word64
  value : Word64
  deriving DecidableEq, Repr

/-- The opcode map (R55). -/
def opcodeTable : List OpRow :=
  [ ⟨.clear,  0xFFFFFFFFFFFFFFFF#64, 0x0100000000000000#64⟩
  , ⟨.setpx,  0xFF00000000FFFFFE#64, 0x0200000000000000#64⟩
  , ⟨.getpx,  0xFF00000000FFFFFF#64, 0x0300000000000000#64⟩
  , ⟨.hline,  0xFF000000000000FE#64, 0x0400000000000000#64⟩
  , ⟨.vline,  0xFF000000000000FE#64, 0x0500000000000000#64⟩
  , ⟨.char,   0xFF00000000FFFF00#64, 0x0600000000000000#64⟩
  , ⟨.str,    0xFF00000000FF00FF#64, 0x0700000000000000#64⟩
  , ⟨.init,   0xFFFFFFFFFFFFFFFF#64, 0x0800000000000000#64⟩
  , ⟨.flush,  0xFFFFFFFFFFFFFFFF#64, 0x0900000000000000#64⟩
  , ⟨.status, 0xFFFFFFFFFFFFFFFF#64, 0x0A00000000000000#64⟩ ]

/-- The word is this row's (R55). -/
def OpRow.accepts (r : OpRow) (w : Word64) : Bool := w &&& r.mask == r.value

/-- The row a command word matches, none when it is illegal (R55, R65). -/
def classify (w : Word64) : Option Op := (opcodeTable.find? fun r => r.accepts w).map (·.op)

/-- Why a command word is illegal (R65). -/
inductive Illegality where
  /-- OPC is 0x00 or 0x0B to 0xFF. -/
  | unassignedOpcode
  /-- OPC is assigned and a must-be-zero field is not zero. -/
  | reservedFieldNotZero
  deriving DecidableEq, Repr

/-- The reason a word that matches no row is illegal (R65). -/
def illegality (w : Word64) : Illegality :=
  if opcodeTable.any fun r => opcField r.value == opcField w then .reservedFieldNotZero else .unassignedOpcode

/-- What the decoder finds at the head of the words it is given (R60). -/
inductive Decoded where
  /-- no word at all -/
  | noWord
  /-- a legal STR header whose payload is not all there yet (R61) -/
  | incomplete
  /-- one illegal word, and the words after it (R60, R65) -/
  | illegal (why : Illegality) (rest : List Word64)
  /-- one command, and the words after it -/
  | command (i : Instr) (rest : List Word64)
  deriving DecidableEq, Repr

/-- An STR header and the words after it: the payload is taken undecoded (R60). -/
def decodeStr (w : Word64) (ws : List Word64) : Decoded :=
  let k := Machine.payloadWords (countField w)
  if k ≤ ws.length then
    .command (.str (xField w) (yField w) (countField w) (ws.take k)) (ws.drop k)
  else .incomplete

/-- The command of a row, its operands taken from the word's fields (R53 to R58). -/
def decodeRow (op : Op) (w : Word64) (ws : List Word64) : Decoded :=
  match op with
  | .clear => .command .clear ws
  | .setpx => .command (.setpx (xField w) (yField w) (onField w)) ws
  | .getpx => .command (.getpx (xField w) (yField w)) ws
  | .hline => .command (.hline (xField w) (yField w) (lenField w) (onField w)) ws
  | .vline => .command (.vline (xField w) (yField w) (lenField w) (onField w)) ws
  | .char => .command (.char (xField w) (yField w) (argField w)) ws
  | .str => decodeStr w ws
  | .init => .command .init ws
  | .flush => .command .flush ws
  | .status => .command .status ws

/-- The decoder, total on any words: reads one word, checks it against R55, and takes an STR's payload (R60). -/
def decode : List Word64 → Decoded
  | [] => .noWord
  | w :: ws =>
    match classify w with
    | none => .illegal (illegality w) ws
    | some op => decodeRow op w ws

/-! The encoder. -/

/-- A command word from its fields (R52). -/
def packWord (opc : Byte) (x y len : Half) (arg : Byte) : Word64 :=
  opc ++ (x ++ (y ++ (len ++ arg)))

/-- The words of a command: the field word of R52, then STR's payload words (R59). -/
def encode : Instr → List Word64
  | .clear => [packWord 0x01#8 0#16 0#16 0#16 0#8]
  | .setpx x y on => [packWord 0x02#8 x y 0#16 (Machine.argOfOn on)]
  | .getpx x y => [packWord 0x03#8 x y 0#16 0#8]
  | .hline x y len on => [packWord 0x04#8 x y len (Machine.argOfOn on)]
  | .vline x y len on => [packWord 0x05#8 x y len (Machine.argOfOn on)]
  | .char x y ch => [packWord 0x06#8 x y 0#16 ch]
  | .str x y n payload => packWord 0x07#8 x y (n.setWidth 16) 0#8 :: payload
  | .init => [packWord 0x08#8 0#16 0#16 0#16 0#8]
  | .flush => [packWord 0x09#8 0#16 0#16 0#16 0#8]
  | .status => [packWord 0x0A#8 0#16 0#16 0#16 0#8]

/-- One payload word from up to eight characters, the first in bits 7:0, zero padding above (R59). -/
def packPayloadWord : List Byte → Word64
  | [] => 0#64
  | b :: bs => (packPayloadWord bs <<< 8) ||| b.setWidth 64

/-- `k` payload words from a text (R59). -/
def packPayload : Nat → List Byte → List Word64
  | 0, _ => []
  | k + 1, text => packPayloadWord (text.take 8) :: packPayload k (text.drop 8)

/-- The STR command that carries a text of at most 255 characters (R58, R59, R71). -/
def Instr.strOf (x y : Half) (text : List Byte) : Instr :=
  .str x y (BitVec.ofNat 8 text.length) (packPayload ((text.length + 7) / 8) text)

/-! The host's fixed name. -/

/-- `k` words of a number, bit 0 the least significant bit of the first. -/
def wordsOfNat : Nat → Nat → List Word64
  | 0, _ => []
  | k + 1, w => BitVec.ofNat 64 w :: wordsOfNat k (w / 2 ^ 64)

/-- How many words the command takes whose first word is `w` (R60, R19). -/
def commandLength (w : Word64) : Nat :=
  if classify w = some .str then 1 + Machine.payloadWords (countField w) else 1

/-- The words of the instruction whose bits are `w`, every bit above `nbits` zero, as long as its first word says. -/
def tableWords (nbits w : Nat) : List Word64 :=
  wordsOfNat (commandLength (BitVec.ofNat 64 (w % 2 ^ nbits))) (w % 2 ^ nbits)

/-- The instruction the decoder reads from an instruction whose bits are `w`, bit 0 the least significant bit of
the first word and a later word's bits counting on from it; none where the decoder refuses it. -/
def decodeTableWord (nbits w : Nat) : Option Instr :=
  match decode (tableWords nbits w) with
  | .command i _ => some i
  | .noWord => none
  | .incomplete => none
  | .illegal _ _ => none

end Sys2Proof
end

