-- ==== Sys2Proof/Machine/Fetch.lean ====
section
/-! DEFINITION. Between two commands: what the machine takes from its command channel and its reset input (R60, R61, R70, R127). -/

namespace Sys2Proof.Machine

/-- What the machine does next. -/
inductive Fetched where
  /-- no machine of this configuration is built (R12) -/
  | refuse (r : Refusal)
  /-- the step ends here: a reset, a response on offer, an idle machine, a payload still being collected, an illegal
  word, an abandoned command -/
  | done (s : State)
  /-- a command is complete: it runs on the state without its words -/
  | run (i : Instr) (s : State)
  deriving DecidableEq, Repr

/-- The words of the command being accepted: those taken already, then those the host offers (R60, R61). -/
def State.words (s : State) : List Word64 := s.pending ++ s.cmdIn

/-- The words of a command are gone from the channel and FBA is idle again (R60). -/
def State.consume (s : State) (rest : List Word64) : State := { s with pending := [], cmdIn := rest }

/-- FBA has taken every word on offer and stays collecting the payload (R61, R140, U11; log entry 8).
The header has loaded the operand registers (R53), and the characters that have come are in TXT (R90): U9 leaves both
any value here (log entry 16). -/
def State.collect (s : State) : State :=
  let loaded :=
    match s.words with
    | [] => s
    | w :: ws =>
      (s.loadOperands (xField w) (yField w) (lenField w) (argField w)).loadText (receivedText (countField w) ws)
  { loaded with pending := s.words, cmdIn := [] }

/-- A response on offer: while the host does not take it FBA accepts no word (R70, R133). -/
def State.offerResponse (s : State) : State := if s.rspReady then s.takeResponse else s

/-- An accepted illegal word: `raise Illegal` (R65), loading no operand register (log entry 7), or abandoned (R128). -/
def State.rejectWord (s : State) : State := if s.rstInCmd then s.abandon else s.raiseIllegal

/-- Reset first (R127); then the response on offer (R70); then the next command of the channel (R60); with no word on
offer FBA waits (R127, R126). A command accepted can be abandoned by a reset before it responds (R128). -/
def fetch (s : State) : Fetched :=
  if s.cfg.valid = false then .refuse .configurationError
  else if s.rstPin then .done s.applyReset
  else if s.rsp.isSome then .done s.offerResponse
  else
    match decode s.words with
    | .noWord => .done s
    | .incomplete => .done s.collect
    | .illegal _ rest => .done (s.consume rest).rejectWord
    | .command i rest => if s.rstInCmd then .done (s.consume rest).abandon else .run i (s.consume rest)

/-- The state with the words of one instruction next on the command channel, no reset about to come, and no response
in the way. -/
def State.offer (s : State) (words : List Word64) : State :=
  { s with rstPin := false, rstInCmd := false, rsp := none, pending := [], cmdIn := words ++ s.cmdIn }

end Sys2Proof.Machine
end

