-- ==== Sys2Proof/Machine/Step.lean ====
section
/-! DEFINITION. One step: a whole command, or what the machine does between commands (R14). -/

namespace Sys2Proof.Machine

/-- One step of the machine. -/
def step (s : State) : Host.Outcome State Fault Refusal :=
  match fetch s with
  | .refuse r => .refused r
  | .done s' => .next s'
  | .run i s' => exec i s'

/-- `s` with the instruction whose bits are `w` next on the command channel, nothing half taken, no response
untaken and no reset asserted. -/
def State.withFetchWord (s : State) (nbits w : Nat) : State := s.offer (tableWords nbits w)

end Sys2Proof.Machine
end

