-- ==== Sys2Proof/Machine/Ports.lean ====
section
/-! DEFINITION. The port-level view of the channels (R70): which transfers a request makes, and when a word is accepted. -/

namespace Sys2Proof.Machine

/-- The values on the `tx_*` outputs in one transfer (R70). -/
structure TxBeat where
  kind    : BitVec 1
  byte    : Byte
  last    : Bool
  addr    : BitVec 7
  timeout : BitVec 32
  deriving DecidableEq, Repr

/-- The payload of a request, in order (R67). -/
def Request.payload : Request → List Byte
  | .cmd b => [b]
  | .data bytes => bytes

/-- `tx_kind`: 0 for `Cmd`, 1 for `Data` (R70). -/
def Request.kind : Request → BitVec 1
  | .cmd _ => 0#1
  | .data _ => 1#1

/-- The transfers of a payload, `tx_last` 1 on the last byte only (R70). -/
def beatsOf (c : Config) (kind : BitVec 1) : List Byte → List TxBeat
  | [] => []
  | [b] => [⟨kind, b, true, c.devAddr, c.timeout⟩]
  | b :: bs => ⟨kind, b, false, c.devAddr, c.timeout⟩ :: beatsOf c kind bs

/-- The transfers on the transport request channel that a request makes (R70). -/
def txBeats (c : Config) (req : Request) : List TxBeat := beatsOf c req.kind req.payload

/-- `cmd_ready`: 1 when FBA is idle or collecting a payload, 0 from the last word of a command until the transfer of its
response, and 0 while `rst` is 1 (R70, R127). No state of the model stands inside a command (R14). -/
def State.cmdReady (s : State) : Bool := !s.rstPin && s.rsp.isNone

/-- `rsp_valid`: FBA offers a response word (R70), and not while `rst` is 1 (R127). Its `rsp_word` is `State.rsp`. -/
def State.rspValid (s : State) : Bool := !s.rstPin && s.rsp.isSome

/-- `tr_result` of the three results the transport may give (R69). -/
def trOk : BitVec 2 := 0#2
/-- FAIL (R69). -/
def trFail : BitVec 2 := 1#2
/-- TIMEOUT (R69). -/
def trTimeout : BitVec 2 := 2#2

end Sys2Proof.Machine
end

