-- ==== Sys2Proof/Safety.lean ====
section
/-! DEFINITION. The terms claims use: the machine's invariant (R32), the transport's contract (R95), what is observable at command boundaries (U15), and the frames. -/

namespace Sys2Proof.Machine

/-! The invariant. -/

/-- The words taken of an unfinished command are none, or a legal STR header with less than its payload (R61). -/
abbrev State.pendingOk (s : State) : Prop := decode s.pending = .noWord ∨ decode s.pending = .incomplete

/-- The counters lie in the ranges of R18. -/
abbrev State.countersOk (s : State) : Prop :=
  s.ctr.k ≤ 65535 ∧ s.ctr.s ≤ 255 ∧ s.ctr.i ≤ 5 ∧ s.ctr.j ≤ 7
    ∧ s.ctr.p < s.cfg.pages ∧ s.ctr.c < s.cfg.width ∧ s.ctr.f ≤ 65535

/-- A response on offer has zeros in 27:16, and nothing of a next command has been taken (R62, R70). -/
abbrev State.responseOk (s : State) : Prop :=
  s.rsp.all (fun w => w.extractLsb' 16 12 == 0#12 && s.pending == []) = true

/-- What holds between commands: a configuration that can be built (R12), a framebuffer of FB_SIZE bytes in canonical
form (R32 item 1), 255 bytes of text (R28), no outstanding request (R32 item 4), a legal half-taken command (R61),
counters in range (R18), and a response on offer only when no command is half taken, its reserved bits 0 (R62, R70). -/
abbrev State.Inv (s : State) : Prop :=
  s.cfg.valid = true ∧ s.fb.wf s.cfg.fbSize = true ∧ s.txt.length = 255 ∧ s.outstanding = none
    ∧ s.pendingOk ∧ s.countersOk ∧ s.responseOk

/-! The transport. -/

/-- The event is a result. -/
def TrEvent.isResult : TrEvent → Bool
  | .result _ => true
  | .rst => false
  | .silent => false

/-- The transport gives each of the next `n` requests a result and no reset comes meanwhile (R95 item 3). -/
def State.transportAnswers (s : State) (n : Nat) : Bool := (s.trIn.take n).all TrEvent.isResult

/-- The results of the next `n` requests: those listed, then free ones (R69). -/
def resultsFrom : List TrEvent → Nat → Nat → List (BitVec 2)
  | _, _, 0 => []
  | [], d, n + 1 => Config.trResult d :: resultsFrom [] (d + 1) n
  | .result code :: rest, d, n + 1 => code :: resultsFrom rest d n
  | .rst :: _, _, _ + 1 => []
  | .silent :: _, _, _ + 1 => []

/-- How many of the next `n` requests fail: any result but OK is a failure (R69, R97). -/
def State.failures (s : State) (n : Nat) : Nat := (resultsFrom s.trIn s.trDraw n).countP (· != trOk)

/-- The requests a command sends (R97: whatever the results are). -/
def requestsOf (i : Instr) (s : State) : List Request :=
  match i with
  | .clear => []
  | .setpx _ _ _ => []
  | .getpx _ _ => []
  | .hline _ _ _ _ => []
  | .vline _ _ _ _ => []
  | .char _ _ _ => []
  | .str _ _ _ _ => []
  | .init => initRequests s.cfg
  | .flush => flushRequests s.cfg s.fb
  | .status => []

/-- The bytes of a list of requests in order, each with the kind of the request that carries it (R67, R70). -/
def taggedBytes (reqs : List Request) : List (BitVec 1 × Byte) :=
  reqs.flatMap fun req => req.payload.map fun b => (req.kind, b)

/-- The bytes of the `Data` requests of a list, in request order (R108). -/
def dataBytes (reqs : List Request) : List Byte :=
  reqs.flatMap fun
    | .cmd _ => []
    | .data bytes => bytes

/-- The bytes of the `Cmd` requests of a list, in request order (R101). -/
def cmdBytes (reqs : List Request) : List Byte :=
  reqs.flatMap fun
    | .cmd b => [b]
    | .data _ => []

/-- The word is one whole command, whatever follows it. -/
def hasWord (i : Instr) (w : Word64) : Prop := ∀ rest, decode (w :: rest) = .command i rest

/-- Commands one after the other, each response taken before the next, stopping at the first stop. -/
def execAll : List Instr → State → Host.Outcome State Fault Refusal
  | [], s => .next s
  | i :: is, s =>
    match exec i s with
    | .next t => execAll is t.takeResponse
    | .fault r => .fault r
    | .refused r => .refused r

/-! What is observable. -/

/-- The architectural state (R15's first four rows). -/
structure Arch where
  fb     : Memory
  dcs    : Dcs
  busErr : Bool
  ill    : Bool
  deriving DecidableEq, Repr

/-- The architectural part of a state (R15). -/
def State.arch (s : State) : Arch := ⟨s.fb, s.dcs, s.busErr, s.ill⟩

/-! Frames: what a command leaves as it was. -/

/-- The configuration, the command channel, the inputs `rst` and `rsp_ready` and the number of resets are unchanged, and
nothing is half taken that was not. -/
def State.sameInputs (s t : State) : Prop :=
  t.cfg = s.cfg ∧ t.pending = s.pending ∧ t.rstPin = s.rstPin ∧ t.rstInCmd = s.rstInCmd ∧ t.rspReady = s.rspReady
    ∧ t.cmdIn = s.cmdIn ∧ t.resets = s.resets

/-- Nothing passed on the transport channels. -/
def State.sameTransport (s t : State) : Prop :=
  t.outstanding = s.outstanding ∧ t.txOut = s.txOut ∧ t.trIn = s.trIn ∧ t.trDraw = s.trDraw

/-- The status bits are unchanged. -/
def State.sameStatus (s t : State) : Prop := t.dcs = s.dcs ∧ t.busErr = s.busErr ∧ t.ill = s.ill

/-- The operand registers hold the fields of the command word (R16, R53; after the command, log entry 16). -/
def State.operandsAre (t : State) (x y len : Half) (arg : Byte) : Prop :=
  t.x = x ∧ t.y = y ∧ t.len = len ∧ t.arg = arg

/-- Exactly one response word is on offer, with this code and data, and those taken before are as they were (R62). -/
def State.responded (s t : State) (code : RspCode) (data : BitVec 16) : Prop :=
  t.rsp = some (responseWord code data) ∧ t.rspOut = s.rspOut

/-- The hidden registers other than the operand registers are unchanged: counters and TXT (R30). -/
def State.sameHidden (s t : State) : Prop := t.ctr = s.ctr ∧ t.txt = s.txt

/-- Every byte of the framebuffer reads as before (R26). -/
def State.sameBytes (s t : State) : Prop := ∀ a, t.fb.read a = s.fb.read a

end Sys2Proof.Machine
end

