-- ==== Sys2Proof/Certificates/Slice0/Obligations.lean ====
section
/-! DEFINITION. The statements for the provers, in the order of the rules of spec/. -/

open Sys2Proof Sys2Proof.Machine

/-! Configuration and execution model (00_scope.md). -/

/-- R12: exactly the configurations that break R7, R8, R9 or R10 are refused; R5's bounds hold by type.
That the refusal is every step's, and not the construction's, is the model's choice (log entry 13). -/
def Obligations.StepRefusesExactlyBadConfigurations : Prop :=
  ∀ s : State,
    (∃ r, step s = .refused r) ↔
      ¬(1 ≤ s.cfg.width ∧ s.cfg.width ≤ 32767 ∧ 8 ≤ s.cfg.height ∧ s.cfg.height ≤ 128 ∧ s.cfg.height % 8 = 0
        ∧ 1 ≤ s.cfg.font.length ∧ s.cfg.font.length ≤ 96
        ∧ 1 ≤ s.cfg.initSeq.length ∧ s.cfg.initSeq.length ≤ 255
        ∧ (s.cfg.colLo = 0x01#8 ∨ s.cfg.colLo = 0x02#8))

/-- R14, R60, R61, R65, R70, R127, R128: a step is the reset, the handling of a response on offer, the wait of an idle
machine, the collecting of a payload, an illegal word, an abandoned command, or the command that the words on the channel
decode to, run on the state without its words.
The model's choices in it: the hidden registers of a reset state (log entry 4), an illegal word loads no operand register
(log entry 7), an unfinished payload is collected (log entry 8), when `rst` is seen and that it is a pulse (log entry 11),
and the operand registers and TXT while a payload is collected (log entry 16). -/
def Obligations.StepRunsTheDecodedCommand : Prop :=
  ∀ s : State, s.cfg.valid = true →
    (s.rstPin = true → step s = .next s.applyReset)
    ∧ (s.rstPin = false → ∀ w, s.rsp = some w →
        step s = .next (if s.rspReady = true then { s with rsp := none, rspOut := s.rspOut ++ [w] } else s))
    ∧ (s.rstPin = false → s.rsp = none →
      (s.pending = [] → s.cmdIn = [] → step s = .next s)
      ∧ (∀ i rest, decode (s.pending ++ s.cmdIn) = .command i rest →
          step s = if s.rstInCmd = true then .next { s with pending := [], cmdIn := rest }.abandon
            else exec i { s with pending := [], cmdIn := rest })
      ∧ (∀ why rest, decode (s.pending ++ s.cmdIn) = .illegal why rest →
          step s = .next (if s.rstInCmd = true then { s with pending := [], cmdIn := rest }.abandon
            else { s with pending := [], cmdIn := rest }.raiseIllegal))
      ∧ (∀ w ws, s.pending ++ s.cmdIn = w :: ws → decode (w :: ws) = .incomplete →
          step s = .next { (s.loadOperands (xField w) (yField w) (lenField w) (argField w)).loadText
            (receivedText (countField w) ws) with pending := w :: ws, cmdIn := [] }))

/-! State (10_state.md). -/

/-- R20: who writes the STATUS bits: only INIT changes DCS, only INIT and FLUSH change BUSERR, and of the commands only
an STR with bad padding changes ILL. -/
def Obligations.StatusBitsHaveTheirWriters : Prop :=
  ∀ (i : Instr) (s t : State), exec i s = .next t → t.resets = s.resets →
    (t.dcs ≠ s.dcs → i = .init)
    ∧ (t.busErr ≠ s.busErr → i = .init ∨ i = .flush)
    ∧ (t.ill ≠ s.ill → ∃ x y n payload, i = .str x y n payload ∧ badPadding n payload = true)

/-- R24: no command but STATUS depends on DCS, BUSERR or ILL: changed beforehand, they change nothing but themselves. -/
def Obligations.StatusBitsInfluenceOnlyStatus : Prop :=
  ∀ (i : Instr) (s : State) (d : Dcs) (b l : Bool), i ≠ .status →
    match exec i s, exec i { s with dcs := d, busErr := b, ill := l } with
    | .next t, .next u => u = { t with dcs := u.dcs, busErr := u.busErr, ill := u.ill }
    | .fault q, .fault r => q = r
    | .refused q, .refused r => q = r
    | .next _, .fault _ => False
    | .next _, .refused _ => False
    | .fault _, .next _ => False
    | .fault _, .refused _ => False
    | .refused _, .next _ => False
    | .refused _, .fault _ => False

/-- R17, R18, R28, R30: the operand registers, the counters and TXT a command starts with change nothing but
themselves: every other field of the next state is as it would have been. -/
def Obligations.HiddenStateIsUnobservable : Prop :=
  ∀ (i : Instr) (s : State) (x y len : Half) (arg : Byte) (ctr : Counters) (txt : List Byte),
    match exec i s, exec i { s with x := x, y := y, len := len, arg := arg, ctr := ctr, txt := txt } with
    | .next t, .next u =>
      u = { t with x := u.x, y := u.y, len := u.len, arg := u.arg, ctr := u.ctr, txt := u.txt }
    | .fault q, .fault r => q = r
    | .refused q, .refused r => q = r
    | .next _, .fault _ => False
    | .next _, .refused _ => False
    | .fault _, .next _ => False
    | .fault _, .refused _ => False
    | .refused _, .next _ => False
    | .refused _, .fault _ => False

/-- R25: no step changes a parameter. -/
def Obligations.NoStepChangesTheConfiguration : Prop :=
  ∀ s t : State, step s = .next t → t.cfg = s.cfg

/-- R31: the values the spec gives at reset, and a framebuffer whose bytes are a free draw (log entry 3). -/
def Obligations.ResetState : Prop :=
  State.reset.dcs = .uninit ∧ State.reset.busErr = false ∧ State.reset.ill = false
    ∧ State.reset.statusWord = 0#16
    ∧ State.reset.pending = [] ∧ State.reset.outstanding = none ∧ State.reset.rsp = none
    ∧ ∀ a, a < State.reset.cfg.fbSize → State.reset.fb.read a = Config.fbDraw 0 a

/-- R32 items 1 and 4, R62's reserved bits, and the ranges of R18, R28, R61: reset meets the invariant. -/
def Obligations.ResetMeetsTheInvariant : Prop := State.reset.Inv

/-- R32 items 1 and 4, R62's reserved bits, and the ranges of R18, R28, R61: every step keeps the invariant, from every state that meets it. -/
def Obligations.StepKeepsTheInvariant : Prop :=
  ∀ s t : State, s.Inv → step s = .next t → t.Inv

/-- R32 item 3 and R20: DCS, BUSERR and ILL never go from 1 to 0 except by reset, and STATUS[15:3] is 0. -/
def Obligations.StatusBitsAreMonotone : Prop :=
  ∀ s t : State, step s = .next t →
    (∀ b, 3 ≤ b → t.statusWord.getLsbD b = false)
    ∧ (t.resets = s.resets →
        (s.dcs = .active → t.dcs = .active) ∧ (s.busErr = true → t.busErr = true) ∧ (s.ill = true → t.ill = true))

/-! The pixel mapping (20_memory.md). -/

/-- R36 and R38: Page, ByteIndex and BitNo are the quotient, the sum and the remainder, and the pixel is the bit of
weight 2^BitNo of the byte at ByteIndex. -/
def Obligations.PixelIsBitOfByte : Prop :=
  ∀ (c : Config) (m : Memory) (x y : Int), inBounds c x y = true →
    (page y : Int) = y / 8 ∧ (byteIndex c x y : Int) = y / 8 * c.width + x ∧ (bitNo y : Int) = y % 8
    ∧ getPixel c m x y = (m.read (byteIndex c x y)).toNat.testBit (bitNo y)

/-- R37: byte indices are in range; pixels and bits correspond one to one, with the inverse the rule gives, both ways
round; two pixels share a byte exactly when they have the same x and page. -/
def Obligations.PixelAddressesAreOneToOne : Prop :=
  ∀ c : Config, c.valid = true →
    (∀ x y, inBounds c x y = true → byteIndex c x y < c.fbSize ∧ bitNo y < 8)
    ∧ (∀ x y x' y', inBounds c x y = true → inBounds c x' y' = true →
        byteIndex c x y = byteIndex c x' y' → bitNo y = bitNo y' → x = x' ∧ y = y')
    ∧ (∀ a b : Nat, a < c.fbSize → b < 8 →
        inBounds c ((a % c.width : Nat) : Int) ((8 * (a / c.width) + b : Nat) : Int) = true
        ∧ byteIndex c ((a % c.width : Nat) : Int) ((8 * (a / c.width) + b : Nat) : Int) = a
        ∧ bitNo ((8 * (a / c.width) + b : Nat) : Int) = b)
    ∧ (∀ x y x' y', inBounds c x y = true → inBounds c x' y' = true →
        (byteIndex c x y = byteIndex c x' y' ↔ x = x' ∧ page y = page y'))
    ∧ (∀ x y, inBounds c x y = true → pixelOf c (byteIndex c x y) (bitNo y) = (x, y))
    ∧ ∀ a b : Nat, pixelOf c a b = (((a % c.width : Nat) : Int), ((8 * (a / c.width) + b : Nat) : Int))

/-! Encoding (30_encoding.md). -/

/-- R55, R59, R60: the words at the head of a list decode to a command with its whole payload exactly when they are that
command's encoding. -/
def Obligations.DecodeAndEncodeAgree : Prop :=
  ∀ (i : Instr) (ws rest : List Word64), i.framed = true →
    (decode ws = .command i rest ↔ ws = encode i ++ rest)

/-- R55, R65, R66: every word matches at most one row of the opcode map; it is illegal exactly when it matches none, and
then only that one word is consumed (R60). -/
def Obligations.WordsMatchAtMostOneRow : Prop :=
  ∀ (w : Word64) (ws : List Word64),
    (∀ r r' : OpRow, r ∈ opcodeTable → r' ∈ opcodeTable → w &&& r.mask = r.value → w &&& r'.mask = r'.value → r = r')
    ∧ ((∃ why, decode (w :: ws) = .illegal why ws) ↔ ∀ r ∈ opcodeTable, w &&& r.mask ≠ r.value)
    ∧ ∀ why rest, decode (w :: ws) = .illegal why rest →
        rest = ws
        ∧ (why = .unassignedOpcode ↔ (opcField w).toNat = 0 ∨ 0x0B ≤ (opcField w).toNat)

/-- R72: the worked encodings. -/
def Obligations.WorkedEncodings : Prop :=
  decode [0x0100000000000000#64] = .command .clear []
    ∧ decode [0x020005000A000001#64] = .command (.setpx 5#16 10#16 true) []
    ∧ decode [0x02FFFF0000000001#64] = .command (.setpx (-1#16) 0#16 true) []
    ∧ decode [0x03007F003F000000#64] = .command (.getpx 127#16 63#16) []
    ∧ decode [0x0400000000008001#64] = .command (.hline 0#16 0#16 128#16 true) []
    ∧ decode [0x0500050004000A01#64] = .command (.vline 5#16 4#16 10#16 true) []
    ∧ decode [0x06000A0003000041#64] = .command (.char 10#16 3#16 65#8) []
    ∧ decode [0x0700020008000300#64, 0x0000000000214948#64] = .command (Instr.strOf 2#16 8#16 [72#8, 73#8, 33#8]) []
    ∧ decode [0x0700000000000900#64, 0x2021494820214948#64, 0x0000000000000041#64] =
        .command (Instr.strOf 0#16 0#16 [72#8, 73#8, 33#8, 32#8, 72#8, 73#8, 33#8, 32#8, 65#8]) []
    ∧ decode [0x0800000000000000#64] = .command .init []
    ∧ decode [0x0900000000000000#64] = .command .flush []
    ∧ decode [0x0A00000000000000#64] = .command .status []

/-- R58, R59: the STR command made from a text of at most 255 characters is a legal command with `ceil(N / 8)` payload
words that carries exactly that text; and the characters of any STR are its payload's bytes, lowest first. -/
def Obligations.StrCarriesItsText : Prop :=
  (∀ (x y : Half) (text : List Byte), text.length ≤ 255 →
    ∃ n payload, Instr.strOf x y text = .str x y n payload ∧ n.toNat = text.length
      ∧ payload.length = (text.length + 7) / 8 ∧ (Instr.strOf x y text).wellFormed = true ∧ textOf n payload = text)
  ∧ ∀ (n : Byte) (payload : List Word64) (k j : Nat) (w : Word64),
      payload[k]? = some w → j < 8 → 8 * k + j < n.toNat →
      ∃ ch, (textOf n payload)[8 * k + j]? = some ch ∧ ch.toNat = w.toNat / 256 ^ j % 256

/-- R19, R60: a command takes one word, an STR `1 + ceil(N / 8)` whether or not its padding is legal, an illegal word
one; the words left on the channel are the rest. -/
def Obligations.CommandsTakeTheirWords : Prop :=
  ∀ s t : State, s.rstPin = false → s.rsp = none → step s = .next t → t.resets = s.resets →
    (∀ i rest, decode (s.pending ++ s.cmdIn) = .command i rest →
      t.pending = [] ∧ t.cmdIn = rest
      ∧ (s.pending ++ s.cmdIn).length = rest.length +
          match i with
          | .str _ _ n _ => 1 + (n.toNat + 7) / 8
          | .clear => 1
          | .setpx _ _ _ => 1
          | .getpx _ _ => 1
          | .hline _ _ _ _ => 1
          | .vline _ _ _ _ => 1
          | .char _ _ _ => 1
          | .init => 1
          | .flush => 1
          | .status => 1)
    ∧ (∀ why rest, decode (s.pending ++ s.cmdIn) = .illegal why rest →
      t.pending = [] ∧ t.cmdIn = rest ∧ (s.pending ++ s.cmdIn).length = rest.length + 1)

/-- R60, R61, R140: a payload not all there is collected without a response, and when more words come the machine goes
on exactly as if all had been on offer at once. That it collects at all is the model's reading of R61 (log entry 8); the
operand registers hold the header's fields and TXT the characters that have come (R53, R90; log entry 16). -/
def Obligations.CollectingLosesNothing : Prop :=
  ∀ (s : State) (w : Word64) (ws : List Word64), s.cfg.valid = true → s.rstPin = false → s.rsp = none →
    s.pending ++ s.cmdIn = w :: ws → decode (w :: ws) = .incomplete →
    ∃ t, step s = .next t
      ∧ t = { s with x := t.x, y := t.y, len := t.len, arg := t.arg, txt := t.txt, pending := w :: ws, cmdIn := [] }
      ∧ t.operandsAre (xField w) (yField w) (lenField w) (argField w)
      ∧ (∀ k, k < 8 * ws.length → t.txt[k]? = some (payloadByte ws k))
      ∧ (∀ k, 8 * ws.length ≤ k → t.txt[k]? = s.txt[k]?)
      ∧ ∀ more, step { t with cmdIn := more } = step { s with cmdIn := s.cmdIn ++ more }

/-- R62: a step that takes a command or an illegal word and is not reset offers exactly one response word, CODE in 31:28,
zeros in 27:16, DATA in 15:0, so the word `CODE * 2^28 + DATA`; a step that takes none offers none. -/
def Obligations.ExactlyOneResponsePerCommand : Prop :=
  ∀ s t : State, s.rstPin = false → s.rsp = none → step s = .next t → t.resets = s.resets →
    (decode (s.pending ++ s.cmdIn) ≠ .noWord → decode (s.pending ++ s.cmdIn) ≠ .incomplete →
      ∃ (w : Word32) (code : RspCode) (data : BitVec 16), t.rsp = some w
        ∧ w.extractLsb' 28 4 = code.bits ∧ w.extractLsb' 16 12 = 0#12
        ∧ w.toNat = code.bits.toNat * 2 ^ 28 + data.toNat)
    ∧ (decode (s.pending ++ s.cmdIn) = .noWord ∨ decode (s.pending ++ s.cmdIn) = .incomplete → t.rsp = none)
    ∧ t.rspOut = s.rspOut

/-- R70, R133: a response on offer keeps `cmd_ready` at 0 and stays on offer until the host is ready, and then exactly it
is transferred and FBA is idle. -/
def Obligations.ResponseIsHeldUntilTaken : Prop :=
  ∀ (s : State) (w : Word32), s.cfg.valid = true → s.rstPin = false → s.rsp = some w →
    s.rspValid = true ∧ s.cmdReady = false
    ∧ (s.rspReady = false → step s = .next s)
    ∧ (s.rspReady = true → ∃ t, step s = .next t ∧ t = { s with rsp := none, rspOut := s.rspOut ++ [w] }
        ∧ t.cmdReady = true)

/-- R70, R127, R133: words pass only by the handshakes: command words only while `cmd_ready` is 1, a response word only
while `rsp_valid` and `rsp_ready` are 1; no response on offer is lost but by reset; `rst` holds both signals at 0. -/
def Obligations.WordsPassOnlyByHandshake : Prop :=
  ∀ s t : State, step s = .next t →
    (t.cmdIn ≠ s.cmdIn → s.cmdReady = true)
    ∧ (t.rspOut ≠ s.rspOut → s.rspValid = true ∧ s.rspReady = true ∧ ∃ w, s.rsp = some w ∧ t.rspOut = s.rspOut ++ [w])
    ∧ (∀ w, s.rsp = some w → t.rsp = some w ∨ t.rspOut = s.rspOut ++ [w] ∨ t.resets = s.resets + 1)
    ∧ (s.cmdReady = true → s.rspValid = false)
    ∧ (s.rstPin = true → s.cmdReady = false ∧ s.rspValid = false)

/-- R70: the transfers of a request carry its payload in order, `tx_last` on the last only, `tx_kind` 0 for `Cmd` and 1
for `Data`, and constant address and timeout. -/
def Obligations.TransfersCarryThePayload : Prop :=
  ∀ (c : Config) (req : Request), req.payload ≠ [] →
    (txBeats c req).map (·.byte) = req.payload
    ∧ (txBeats c req).map (·.last) = List.replicate (req.payload.length - 1) false ++ [true]
    ∧ ∀ b ∈ txBeats c req, b.addr = c.devAddr ∧ b.timeout = c.timeout
      ∧ b.kind =
        match req with
        | .cmd _ => 0#1
        | .data _ => 1#1

/-! The framebuffer commands (40_framebuffer.md). -/

/-- R73: in bounds, SetPixel changes the one bit of the one byte; out of bounds it changes nothing. -/
def Obligations.SetPixelChangesOneBit : Prop :=
  ∀ (c : Config) (m : Memory) (x y : Int) (on : Bool), c.valid = true → m.wf c.fbSize = true →
    (inBounds c x y = true → ∀ a b : Nat, b < 8 →
      ((setPixel c x y on m).read a).getLsbD b =
        if a = byteIndex c x y ∧ b = bitNo y then on else (m.read a).getLsbD b)
    ∧ (inBounds c x y = false → setPixel c x y on m = m)

/-- R79: write then read, idempotence, frame, out of bounds, clear, and nothing but FB. -/
def Obligations.PixelLaws : Prop :=
  (∀ (c : Config) (m : Memory) (x y : Int) (v : Bool), c.valid = true → m.wf c.fbSize = true →
    (inBounds c x y = true → getPixel c (setPixel c x y v m) x y = v)
    ∧ setPixel c x y v (setPixel c x y v m) = setPixel c x y v m
    ∧ (∀ x' y', inBounds c x' y' = true → ¬(x' = x ∧ y' = y) →
        getPixel c (setPixel c x y v m) x' y' = getPixel c m x' y')
    ∧ (inBounds c x y = false → ∀ a, (setPixel c x y v m).read a = m.read a)
    ∧ getPixel c (clearFb c m) x y = false)
  ∧ ∀ (i : Instr) (s t : State), i = .clear ∨ (∃ x y v, i = .setpx x y v) ∨ (∃ x y, i = .getpx x y) →
      exec i s = .next t → s.sameStatus t ∧ t.txOut = s.txOut

/-- R75: CLEAR gives every byte 0x00 and changes nothing else.
The operand registers and the counters after the command are the model's (log entries 16 and 5). -/
def Obligations.ClearZeroesEveryByte : Prop :=
  hasWord .clear 0x0100000000000000#64 ∧
  ∀ s : State, ∃ t, exec .clear s = .next t
    ∧ (∀ a, t.fb.read a = 0x00#8)
    ∧ t.operandsAre 0#16 0#16 0#16 0#8 ∧ s.sameHidden t ∧ s.sameStatus t ∧ s.sameInputs t ∧ s.sameTransport t
    ∧ s.responded t .ok 0#16

/-- R75's pseudocode: writing 0x00 to every byte in turn ends in the framebuffer that the model's CLEAR gives at once
(the model's choice, log entry 9). -/
def Obligations.ClearIsTheLoopOfWrites : Prop :=
  ∀ (c : Config) (m : Memory), m.wf c.fbSize = true →
    (List.range c.fbSize).foldl (fun (m : Memory) (a : Nat) => m.write a 0x00#8) m = clearFb c m

/-- R76: SETPX sets its pixel, in bounds, and no other; out of bounds it changes no byte and still answers OK.
The operand registers and the counters after the command are the model's (log entries 16 and 5). -/
def Obligations.SetpxSetsItsPixel : Prop :=
  ∀ (s : State) (x y : Half) (on : Bool), s.cfg.valid = true → s.fb.wf s.cfg.fbSize = true →
    hasWord (.setpx x y on) (packWord 0x02#8 x y 0#16 (argOfOn on)) ∧
    ∃ t, exec (.setpx x y on) s = .next t
      ∧ (∀ x' y', inBounds s.cfg x' y' = true →
          getPixel s.cfg t.fb x' y' = if x' = coord x ∧ y' = coord y then on else getPixel s.cfg s.fb x' y')
      ∧ (∀ a, (inBounds s.cfg (coord x) (coord y) = true → a ≠ byteIndex s.cfg (coord x) (coord y)) →
          t.fb.read a = s.fb.read a)
      ∧ t.operandsAre x y 0#16 (argOfOn on) ∧ s.sameHidden t ∧ s.sameStatus t ∧ s.sameInputs t ∧ s.sameTransport t
      ∧ s.responded t .ok 0#16

/-- R77 and R74: GETPX answers OK with the pixel's bit, 0 out of bounds, and changes no state but the operand registers
it loads.
The operand registers and the counters after the command are the model's (log entries 16 and 5). -/
def Obligations.GetpxReadsItsPixel : Prop :=
  ∀ (s : State) (x y : Half),
    hasWord (.getpx x y) (packWord 0x03#8 x y 0#16 0#8) ∧
    ∃ t, exec (.getpx x y) s = .next t
      ∧ s.responded t .ok (BitVec.ofNat 16
          (if inBounds s.cfg (coord x) (coord y) = true
            then (s.fb.read (byteIndex s.cfg (coord x) (coord y))).toNat / 2 ^ bitNo (coord y) % 2 else 0))
      ∧ s.sameBytes t
      ∧ t.operandsAre x y 0#16 0#8 ∧ s.sameHidden t ∧ s.sameStatus t ∧ s.sameInputs t ∧ s.sameTransport t

/-! The primitive rasterizer (41_primitive_rasterizer.md). -/

/-- R81: HLINE gives the pixels from (X, Y) to the right their new value, clipped to the panel, and changes no other.
The operand registers and the counters after the command are the model's (log entries 16 and 5). -/
def Obligations.HlineDrawsItsPixels : Prop :=
  ∀ (s : State) (x y len : Half) (on : Bool), s.cfg.valid = true → s.fb.wf s.cfg.fbSize = true →
    hasWord (.hline x y len on) (packWord 0x04#8 x y len (argOfOn on)) ∧
    ∃ t, exec (.hline x y len on) s = .next t
      ∧ (∀ x' y', inBounds s.cfg x' y' = true →
          getPixel s.cfg t.fb x' y' =
            if y' = coord y ∧ coord x ≤ x' ∧ x' < coord x + len.toNat then on else getPixel s.cfg s.fb x' y')
      ∧ (∀ a, (∀ k : Nat, k < len.toNat → inBounds s.cfg (coord x + k) (coord y) = true →
            a ≠ byteIndex s.cfg (coord x + k) (coord y)) → t.fb.read a = s.fb.read a)
      ∧ t.operandsAre x y len (argOfOn on) ∧ t.ctr = { s.ctr with k := t.ctr.k } ∧ t.ctr.k ≤ 65535 ∧ t.txt = s.txt
      ∧ s.sameStatus t ∧ s.sameInputs t ∧ s.sameTransport t ∧ s.responded t .ok 0#16

/-- R82: VLINE gives the pixels from (X, Y) downwards their new value, clipped to the panel, and changes no other.
The operand registers and the counters after the command are the model's (log entries 16 and 5). -/
def Obligations.VlineDrawsItsPixels : Prop :=
  ∀ (s : State) (x y len : Half) (on : Bool), s.cfg.valid = true → s.fb.wf s.cfg.fbSize = true →
    hasWord (.vline x y len on) (packWord 0x05#8 x y len (argOfOn on)) ∧
    ∃ t, exec (.vline x y len on) s = .next t
      ∧ (∀ x' y', inBounds s.cfg x' y' = true →
          getPixel s.cfg t.fb x' y' =
            if x' = coord x ∧ coord y ≤ y' ∧ y' < coord y + len.toNat then on else getPixel s.cfg s.fb x' y')
      ∧ (∀ a, (∀ k : Nat, k < len.toNat → inBounds s.cfg (coord x) (coord y + k) = true →
            a ≠ byteIndex s.cfg (coord x) (coord y + k)) → t.fb.read a = s.fb.read a)
      ∧ t.operandsAre x y len (argOfOn on) ∧ t.ctr = { s.ctr with k := t.ctr.k } ∧ t.ctr.k ≤ 65535 ∧ t.txt = s.txt
      ∧ s.sameStatus t ∧ s.sameInputs t ∧ s.sameTransport t ∧ s.responded t .ok 0#16

/-- R85 item 1, for every geometry: from a clear framebuffer `HLINE 0, 0, WIDTH, 1` gives bytes 0 to WIDTH-1 the value
0x01 and leaves the others 0x00. -/
def Obligations.FullWidthLineFillsRowZero : Prop :=
  ∀ s : State, s.cfg.valid = true → s.fb = [] →
    ∃ t, exec (.hline 0#16 0#16 (BitVec.ofNat 16 s.cfg.width) true) s = .next t
      ∧ ∀ a, t.fb.read a = if a < s.cfg.width then 0x01#8 else 0x00#8

/-- R85 item 3: a line of one pixel, either way, leaves the architectural state that SETPX leaves. -/
def Obligations.OnePixelLinesAreSetpx : Prop :=
  ∀ (s : State) (x y : Half) (on : Bool),
    ∃ t u v, exec (.hline x y 1#16 on) s = .next t ∧ exec (.vline x y 1#16 on) s = .next u
      ∧ exec (.setpx x y on) s = .next v ∧ t.arch = v.arch ∧ u.arch = v.arch

/-! The glyph rasterizer (42_glyph_rasterizer.md). -/

/-- R86: the glyph of a character is entry `ch - 32` of the table when that index is in the table, and otherwise there is
none; no code from 128 on has a glyph. -/
def Obligations.GlyphGuard : Prop :=
  ∀ (c : Config) (ch : Byte), c.valid = true →
    ((glyphOf c ch).isSome = true ↔ 0 ≤ (ch.toNat : Int) - 32 ∧ (ch.toNat : Int) - 32 < c.font.length)
    ∧ (∀ g, glyphOf c ch = some g → c.font[ch.toNat - 32]? = some g)
    ∧ (128 ≤ ch.toNat → glyphOf c ch = none)

/-- R89, R92: CHAR gives every in-bounds pixel of its 6 by 8 cell the glyph's bit, or 0 in column 5, and changes no other
pixel; without a glyph it changes none.
The operand registers and the counters after the command are the model's (log entries 16 and 5). -/
def Obligations.CharDrawsItsCell : Prop :=
  ∀ (s : State) (x y : Half) (ch : Byte), s.cfg.valid = true → s.fb.wf s.cfg.fbSize = true →
    hasWord (.char x y ch) (packWord 0x06#8 x y 0#16 ch) ∧
    ∃ t, exec (.char x y ch) s = .next t
      ∧ (∀ x' y', inBounds s.cfg x' y' = true →
          getPixel s.cfg t.fb x' y' =
            match glyphOf s.cfg ch with
            | none => getPixel s.cfg s.fb x' y'
            | some g =>
              if coord x ≤ x' ∧ x' ≤ coord x + 5 ∧ coord y ≤ y' ∧ y' ≤ coord y + 7
              then
                if h : (x' - coord x).toNat < 5 then (g[(x' - coord x).toNat]'h).getLsbD (y' - coord y).toNat else false
              else getPixel s.cfg s.fb x' y')
      ∧ (∀ a, ((glyphOf s.cfg ch).isSome = true → ∀ i j : Nat, i < 6 → j < 8 →
            inBounds s.cfg (coord x + i) (coord y + j) = true → a ≠ byteIndex s.cfg (coord x + i) (coord y + j)) →
          t.fb.read a = s.fb.read a)
      ∧ t.operandsAre x y 0#16 ch ∧ t.ctr = { s.ctr with i := t.ctr.i, j := t.ctr.j } ∧ t.ctr.i ≤ 5 ∧ t.ctr.j ≤ 7
      ∧ t.txt = s.txt ∧ s.sameStatus t ∧ s.sameInputs t ∧ s.sameTransport t ∧ s.responded t .ok 0#16

/-- R90, R91: STR with zero padding puts its text in TXT and draws character S of it in the cell at X + 6 * S; the cell of
a character without a glyph, and every pixel outside the cells, stays.
The operand registers, TXT and the loop counters after the command are the model's (log entries 16 and 5). -/
def Obligations.StrDrawsItsText : Prop :=
  ∀ (s : State) (x y : Half) (n : Byte) (payload : List Word64),
    s.cfg.valid = true → s.fb.wf s.cfg.fbSize = true → badPadding n payload = false →
    ∃ t, exec (.str x y n payload) s = .next t
      ∧ (∀ x' y', inBounds s.cfg x' y' = true →
          getPixel s.cfg t.fb x' y' =
            if coord x ≤ x' ∧ coord y ≤ y' ∧ y' ≤ coord y + 7 then
              match (textOf n payload)[((x' - coord x) / 6).toNat]?.bind (glyphOf s.cfg) with
              | none => getPixel s.cfg s.fb x' y'
              | some g =>
                if h : ((x' - coord x) % 6).toNat < 5 then (g[((x' - coord x) % 6).toNat]'h).getLsbD (y' - coord y).toNat
                else false
            else getPixel s.cfg s.fb x' y')
      ∧ (∀ a, (∀ (k : Nat) (ch : Byte), (textOf n payload)[k]? = some ch → (glyphOf s.cfg ch).isSome = true →
            ∀ i j : Nat, i < 6 → j < 8 → inBounds s.cfg (coord x + 6 * k + i) (coord y + j) = true →
            a ≠ byteIndex s.cfg (coord x + 6 * k + i) (coord y + j)) → t.fb.read a = s.fb.read a)
      ∧ t.txt = textOf n payload ++ s.txt.drop n.toNat
      ∧ t.operandsAre x y (n.setWidth 16) 0#8
      ∧ t.ctr = { s.ctr with s := t.ctr.s, i := t.ctr.i, j := t.ctr.j } ∧ t.ctr.s ≤ 255 ∧ t.ctr.i ≤ 5 ∧ t.ctr.j ≤ 7
      ∧ s.sameStatus t ∧ s.sameInputs t ∧ s.sameTransport t ∧ s.responded t .ok 0#16

/-- R94 item 1: after `STR X, Y, "A"`, with a glyph for code 65, every in-bounds pixel of the cell is FONT[33]'s, 0 in
column 5, and every other pixel is unchanged. -/
def Obligations.StrOfAShowsItsGlyph : Prop :=
  ∀ (s : State) (x y : Half) (g : Glyph), s.cfg.valid = true → s.fb.wf s.cfg.fbSize = true → s.cfg.font[33]? = some g →
    ∃ t, exec (Instr.strOf x y [65#8]) s = .next t
      ∧ (∀ i j : Nat, i < 6 → j < 8 → inBounds s.cfg (coord x + i) (coord y + j) = true →
          getPixel s.cfg t.fb (coord x + i) (coord y + j) = if h : i < 5 then g[i].getLsbD j else false)
      ∧ (∀ x' y', inBounds s.cfg x' y' = true →
          (∀ i j : Nat, i < 6 → j < 8 → ¬(x' = coord x + i ∧ y' = coord y + j)) →
          getPixel s.cfg t.fb x' y' = getPixel s.cfg s.fb x' y')

/-- R94 item 2: an STR of one character leaves the architectural state that CHAR leaves. -/
def Obligations.StrOfOneCharacterIsChar : Prop :=
  ∀ (s : State) (x y : Half) (ch : Byte),
    ∃ t u, exec (Instr.strOf x y [ch]) s = .next t ∧ exec (.char x y ch) s = .next u ∧ t.arch = u.arch

/-- R94 item 3: STR leaves the architectural state of its CHARs in order, where every X + 6 * S fits the field; where some
do not, of the CHARs whose X + 6 * S fits, and each other cell draws nothing on any legal panel. -/
def Obligations.StrIsItsCharsInOrder : Prop :=
  (∀ (s : State) (x y : Half) (text : List Byte), text.length ≤ 255 →
    (∀ k : Nat, k < text.length → coord x + 6 * k ≤ 32767) →
    ∃ t u, exec (Instr.strOf x y text) s = .next t
      ∧ execAll (text.zipIdx.map fun p => Instr.char (x + BitVec.ofNat 16 (6 * p.2)) y p.1) s = .next u
      ∧ t.arch = u.arch)
  ∧ (∀ (s : State) (x y : Half) (text : List Byte), s.cfg.valid = true → text.length ≤ 255 →
    ∃ t u, exec (Instr.strOf x y text) s = .next t
      ∧ execAll ((text.zipIdx.filter fun p => decide (coord x + 6 * (p.2 : Int) ≤ 32767)).map fun p =>
          Instr.char (x + BitVec.ofNat 16 (6 * p.2)) y p.1) s = .next u
      ∧ t.arch = u.arch)
  ∧ ∀ (c : Config) (m : Memory) (x y : Half) (k : Nat) (ch : Byte), c.valid = true → 32767 < coord x + 6 * k →
      drawChar c (coord x + 6 * k) (coord y) ch m = m

/-- R94 item 5: neither CHAR nor STR, whatever its padding, changes DCS or BUSERR or sends a transport request; ILL
changes only by an STR with bad padding (R90). -/
def Obligations.TextCommandsSendNothing : Prop :=
  ∀ (i : Instr) (s t : State), (∃ x y ch, i = .char x y ch) ∨ (∃ x y n payload, i = .str x y n payload) →
    exec i s = .next t →
    t.dcs = s.dcs ∧ t.busErr = s.busErr ∧ s.sameTransport t
    ∧ ((∀ x y n payload, i = .str x y n payload → badPadding n payload = false) → t.ill = s.ill)

/-- R94 item 4: at an aligned Y in range, CHAR stores the glyph's column bytes, and 0x00 in column 5, unchanged. -/
def Obligations.AlignedCharCopiesColumns : Prop :=
  ∀ (s : State) (x y : Half) (ch : Byte) (g : Glyph), s.cfg.valid = true → s.fb.wf s.cfg.fbSize = true →
    coord y % 8 = 0 → 0 ≤ coord y → coord y < s.cfg.height → glyphOf s.cfg ch = some g →
    ∃ t, exec (.char x y ch) s = .next t
      ∧ (∀ (i : Nat) (h : i < 5), inBounds s.cfg (coord x + i) (coord y) = true →
          t.fb.read (byteIndex s.cfg (coord x + i) (coord y)) = g[i])
      ∧ (inBounds s.cfg (coord x + 5) (coord y) = true →
          t.fb.read (byteIndex s.cfg (coord x + 5) (coord y)) = 0x00#8)

/-! The display page sequencer (43_display_sequencer.md). -/

/-- R97, R98, R111: a command that is not reset sends its requests, all of them and in order, whatever the results are;
the drawing commands and STATUS send none. -/
def Obligations.RequestsDoNotDependOnResults : Prop :=
  ∀ (i : Instr) (s t : State), exec i s = .next t → t.resets = s.resets → t.txOut = s.txOut ++ requestsOf i s

/-- R100, R101, R102: INIT sends INIT_SEQ byte by byte, ends ACTIVE whatever the results, and reports the failures.
The operand registers and the counters after the command are the model's (log entries 16 and 5). -/
def Obligations.InitSendsTheSequence : Prop :=
  hasWord .init 0x0800000000000000#64 ∧
  ∀ s : State, s.cfg.valid = true → s.transportAnswers s.cfg.initSeq.length = true →
    ∃ t, exec .init s = .next t
      ∧ t.txOut = s.txOut ++ s.cfg.initSeq.map Request.cmd
      ∧ t.dcs = .active ∧ t.busErr = (s.busErr || s.failures s.cfg.initSeq.length != 0) ∧ t.ill = s.ill
      ∧ t.ctr = { s.ctr with k := t.ctr.k, f := s.failures s.cfg.initSeq.length } ∧ t.ctr.k ≤ 65535
      ∧ s.responded t (if s.failures s.cfg.initSeq.length = 0 then .ok else .busFail)
          (BitVec.ofNat 16 (s.failures s.cfg.initSeq.length))
      ∧ s.sameBytes t ∧ t.operandsAre 0#16 0#16 0#16 0#8 ∧ t.txt = s.txt ∧ s.sameInputs t ∧ t.outstanding = none
      ∧ t.trIn = s.trIn.drop s.cfg.initSeq.length

/-- R104, R107: FLUSH sends its requests, leaves the framebuffer and DCS as they are, in either state of DCS, and reports
the failures, their count saturating at 65535.
The operand registers and the counters after the command are the model's (log entries 16 and 5). -/
def Obligations.FlushSendsThePages : Prop :=
  hasWord .flush 0x0900000000000000#64 ∧
  ∀ s : State, s.cfg.valid = true → s.transportAnswers (flushRequests s.cfg s.fb).length = true →
    ∃ t, exec .flush s = .next t
      ∧ t.txOut = s.txOut ++ flushRequests s.cfg s.fb
      ∧ t.dcs = s.dcs ∧ t.busErr = (s.busErr || s.failures (flushRequests s.cfg s.fb).length != 0) ∧ t.ill = s.ill
      ∧ t.ctr = { s.ctr with
          p := t.ctr.p, c := t.ctr.c, f := min (s.failures (flushRequests s.cfg s.fb).length) 65535 }
      ∧ t.ctr.p < s.cfg.pages ∧ t.ctr.c < s.cfg.width
      ∧ s.responded t (if s.failures (flushRequests s.cfg s.fb).length = 0 then .ok else .busFail)
          (BitVec.ofNat 16 (min (s.failures (flushRequests s.cfg s.fb).length) 65535))
      ∧ s.sameBytes t ∧ t.operandsAre 0#16 0#16 0#16 0#8 ∧ t.txt = s.txt ∧ s.sameInputs t ∧ t.outstanding = none
      ∧ t.trIn = s.trIn.drop (flushRequests s.cfg s.fb).length

/-- R103, R104, R105, R141: FLUSH's requests, one by one: for each page its address, the two column commands, and then
its WIDTH bytes from column 0 on, in one request or in one for each byte. -/
def Obligations.FlushRequestsOneByOne : Prop :=
  ∀ (c : Config) (m : Memory), c.valid = true →
    (c.xferMode = .bulk →
      (flushRequests c m).length = 4 * c.pages
      ∧ ∀ p, p < c.pages →
        (flushRequests c m)[4 * p]? = some (.cmd (BitVec.ofNat 8 (0xB0 + p)))
        ∧ (flushRequests c m)[4 * p + 1]? = some (.cmd c.colLo)
        ∧ (flushRequests c m)[4 * p + 2]? = some (.cmd c.colHi)
        ∧ (flushRequests c m)[4 * p + 3]? = some (.data ((List.range c.width).map fun x => m.read (p * c.width + x))))
    ∧ (c.xferMode = .single →
      (flushRequests c m).length = (3 + c.width) * c.pages
      ∧ ∀ p, p < c.pages →
        (flushRequests c m)[(3 + c.width) * p]? = some (.cmd (BitVec.ofNat 8 (0xB0 + p)))
        ∧ (flushRequests c m)[(3 + c.width) * p + 1]? = some (.cmd c.colLo)
        ∧ (flushRequests c m)[(3 + c.width) * p + 2]? = some (.cmd c.colHi)
        ∧ ∀ x, x < c.width →
          (flushRequests c m)[(3 + c.width) * p + 3 + x]? = some (.data [m.read (p * c.width + x)]))

/-- R106: the page command byte is 0xB0 + p without carry, its low four bits the page number. -/
def Obligations.PageCommandBytes : Prop :=
  (∀ (c : Config) (p : Nat), c.valid = true → p < c.pages →
    (pageCommand p).toNat = 0xB0 + p ∧ (pageCommand p).toNat ≤ 0xBF ∧ (pageCommand p).toNat % 16 = p)
  ∧ (List.range defaultConfig.pages).map pageCommand =
      [0xB0#8, 0xB1#8, 0xB2#8, 0xB3#8, 0xB4#8, 0xB5#8, 0xB6#8, 0xB7#8]

/-- R108 item 1: the data bytes of a FLUSH are the framebuffer, byte index by byte index, so that byte `P * WIDTH + C`
of them carries the pixels (C, 8 * P + b). -/
def Obligations.FlushRoundTrip : Prop :=
  ∀ (c : Config) (m : Memory), c.valid = true →
    dataBytes (flushRequests c m) = (List.range c.fbSize).map m.read
    ∧ ∀ p x b : Nat, p < c.pages → x < c.width → b < 8 →
        ((dataBytes (flushRequests c m))[p * c.width + x]?.map fun v : Byte => v.getLsbD b)
          = some (getPixel c m (x : Int) ((8 * p + b : Nat) : Int))

/-- R108 items 2 and 3: a FLUSH that is not reset leaves FB, DCS and ILL, and two such flushes of the same framebuffer
under the same configuration send the same requests, whatever else differs. -/
def Obligations.FlushIsAPureRead : Prop :=
  (∀ s t : State, exec .flush s = .next t → t.resets = s.resets → t.fb = s.fb ∧ t.dcs = s.dcs ∧ t.ill = s.ill)
  ∧ ∀ s s' t t' : State, s'.cfg = s.cfg → s'.fb = s.fb → exec .flush s = .next t → exec .flush s' = .next t' →
      t.resets = s.resets → t'.resets = s'.resets → t'.txOut.drop s'.txOut.length = t.txOut.drop s.txOut.length

/-- R108 item 4: the two transfer modes send the same bytes in the same order, each as command or data byte, so the same
`Cmd` requests in the same places among the same data bytes. -/
def Obligations.TransferModesAgree : Prop :=
  ∀ (c : Config) (m : Memory), c.valid = true →
    taggedBytes (flushRequests { c with xferMode := .bulk } m) = taggedBytes (flushRequests { c with xferMode := .single } m)
    ∧ cmdBytes (flushRequests { c with xferMode := .bulk } m) = cmdBytes (flushRequests { c with xferMode := .single } m)
    ∧ dataBytes (flushRequests { c with xferMode := .bulk } m)
        = dataBytes (flushRequests { c with xferMode := .single } m)

/-- R109 and R20: STATUS answers OK with bit 0 DCS, bit 1 BUSERR, bit 2 ILL and zeros above, and clears nothing.
The operand registers and the counters after the command are the model's (log entries 16 and 5). -/
def Obligations.StatusReadsTheBits : Prop :=
  hasWord .status 0x0A00000000000000#64 ∧
  ∀ s : State, ∃ t data, exec .status s = .next t ∧ s.responded t .ok data
    ∧ (data.getLsbD 0 = true ↔ s.dcs = .active) ∧ data.getLsbD 1 = s.busErr ∧ data.getLsbD 2 = s.ill
    ∧ (∀ b, 3 ≤ b → data.getLsbD b = false)
    ∧ s.sameBytes t
    ∧ t.operandsAre 0#16 0#16 0#16 0#8 ∧ s.sameHidden t ∧ s.sameStatus t ∧ s.sameInputs t ∧ s.sameTransport t

/-! Error conditions (60_exceptions.md). -/

/-- R65, R115: an illegal word, and an STR whose padding is not zero, set ILL, answer ILLEGAL with 0, and change neither
FB, DCS nor BUSERR nor send anything; its words are taken, an STR's payload with them, and nothing is half taken
afterwards. That an illegal word leaves the operand registers is the model's reading (log entry 7, DEDUCED), and that they
hold the header's fields after an STR with bad padding is log entry 16; that the counters stay as they were is log
entry 5. -/
def Obligations.IllegalCommandsDoNothing : Prop :=
  ∀ s : State, s.cfg.valid = true → s.rstPin = false → s.rsp = none → s.rstInCmd = false →
    ((∃ why rest, decode (s.pending ++ s.cmdIn) = .illegal why rest)
      ∨ (∃ x y n payload rest, decode (s.pending ++ s.cmdIn) = .command (.str x y n payload) rest
          ∧ badPadding n payload = true)) →
    ∃ t, step s = .next t ∧ t.ill = true ∧ t.fb = s.fb ∧ t.dcs = s.dcs ∧ t.busErr = s.busErr
      ∧ s.sameTransport t ∧ s.responded t .illegal 0#16 ∧ t.pending = [] ∧ t.ctr = s.ctr
      ∧ ((∃ why rest, decode (s.pending ++ s.cmdIn) = .illegal why rest) →
          t.operandsAre s.x s.y s.len s.arg ∧ t.txt = s.txt)
      ∧ (∀ why rest, decode (s.pending ++ s.cmdIn) = .illegal why rest → t.cmdIn = rest)
      ∧ (∀ x y n payload rest, decode (s.pending ++ s.cmdIn) = .command (.str x y n payload) rest →
          t.cmdIn = rest ∧ t.operandsAre x y (n.setWidth 16) 0#8 ∧ t.txt = textOf n payload ++ s.txt.drop n.toNat)

/-- R90, R115: STR with bad padding has loaded TXT and its operands, and nothing of it is drawn.
That they and the counters hold these values after the command is the model's (log entries 16 and 5). -/
def Obligations.StrWithBadPaddingIsIllegal : Prop :=
  ∀ (s : State) (x y : Half) (n : Byte) (payload : List Word64), badPadding n payload = true →
    ∃ t, exec (.str x y n payload) s = .next t ∧ t.fb = s.fb ∧ t.dcs = s.dcs ∧ t.busErr = s.busErr ∧ t.ill = true
      ∧ t.txt = textOf n payload ++ s.txt.drop n.toNat ∧ t.operandsAre x y (n.setWidth 16) 0#8 ∧ t.ctr = s.ctr
      ∧ s.sameInputs t ∧ s.sameTransport t ∧ s.responded t .illegal 0#16

/-- R120: a command stops only on a transport that never answers one of its requests, and INIT and FLUSH do stop on one. -/
def Obligations.OnlyASilentTransportStopsACommand : Prop :=
  (∀ (i : Instr) (s : State) (r : Fault), exec i s = .fault r →
    r = .transportSilent ∧ (i = .init ∨ i = .flush) ∧ TrEvent.silent ∈ s.trIn)
  ∧ (∀ (i : Instr) (s : State) (r : Refusal), exec i s ≠ .refused r)
  ∧ ∀ (i : Instr) (s : State) (codes : List (BitVec 2)) (rest : List TrEvent),
      s.trIn = codes.map TrEvent.result ++ .silent :: rest → codes.length < (requestsOf i s).length →
      exec i s = .fault .transportSilent

/-! Reset and termination (70_reset_and_hazards.md). -/

/-- R127, R31: `rst` between commands takes the reset state: the status bits 0, nothing half taken, no request
outstanding, no response on offer, the framebuffer a new free draw (log entry 3); the parameters and the channels stay.
That one step with `rst` asserted is a pulse is the model's choice (log entry 11). -/
def Obligations.RstTakesTheResetState : Prop :=
  ∀ s : State, s.cfg.valid = true → s.rstPin = true →
    ∃ t, step s = .next t ∧ t.statusWord = 0#16 ∧ t.dcs = .uninit ∧ t.busErr = false ∧ t.ill = false
      ∧ t.pending = [] ∧ t.outstanding = none ∧ t.rsp = none ∧ t.rstPin = false ∧ t.resets = s.resets + 1
      ∧ (∀ a, a < s.cfg.fbSize → t.fb.read a = Config.fbDraw (s.resets + 1) a)
      ∧ t.cfg = s.cfg ∧ t.cmdIn = s.cmdIn ∧ t.rspOut = s.rspOut ∧ t.txOut = s.txOut ∧ t.trIn = s.trIn

/-- R128: a command met by `rst` while it waits for the transport gives no response, has sent a first part of its
requests, and leaves the reset state, the framebuffer a new free draw (log entry 3).
That exec itself is met by `rst` only in such a wait, so only in INIT and FLUSH after a first request, is the model's
choice (log entry 11); ResetAbandonsAnyCommand states the abandoning of every command between acceptance and response. -/
def Obligations.ResetAbandonsACommand : Prop :=
  ∀ (i : Instr) (s t : State), exec i s = .next t → t.resets ≠ s.resets →
    (i = .init ∨ i = .flush) ∧ t.resets = s.resets + 1 ∧ t.rsp = none ∧ t.rspOut = s.rspOut
    ∧ t.dcs = .uninit ∧ t.busErr = false ∧ t.ill = false ∧ t.outstanding = none ∧ t.pending = []
    ∧ (∀ a, a < s.cfg.fbSize → t.fb.read a = Config.fbDraw (s.resets + 1) a)
    ∧ t.cfg = s.cfg ∧ t.cmdIn = s.cmdIn
    ∧ ∃ sent rest, sent ≠ [] ∧ requestsOf i s = sent ++ rest ∧ t.txOut = s.txOut ++ sent

/-- R128: any command, legal or not, that is accepted and met by `rst` before it responds is abandoned: its words are
taken, it gives no response, and the reset state follows, the framebuffer a new free draw (log entry 3). The instant
shown, before a first request is sent, is the model's choice (log entry 11). -/
def Obligations.ResetAbandonsAnyCommand : Prop :=
  ∀ (s : State) (rest : List Word64), s.cfg.valid = true → s.rstPin = false → s.rsp = none → s.rstInCmd = true →
    ((∃ i, decode (s.pending ++ s.cmdIn) = .command i rest) ∨ ∃ why, decode (s.pending ++ s.cmdIn) = .illegal why rest) →
    ∃ t, step s = .next t ∧ t.rsp = none ∧ t.rspOut = s.rspOut ∧ t.txOut = s.txOut ∧ t.trIn = s.trIn
      ∧ t.dcs = .uninit ∧ t.busErr = false ∧ t.ill = false ∧ t.outstanding = none ∧ t.pending = [] ∧ t.cmdIn = rest
      ∧ (∀ a, a < s.cfg.fbSize → t.fb.read a = Config.fbDraw (s.resets + 1) a)
      ∧ t.cfg = s.cfg ∧ t.resets = s.resets + 1 ∧ t.rstInCmd = false

/-- R142: given a transport that keeps its contract, every command ends with its response. -/
def Obligations.EveryCommandTerminates : Prop :=
  ∀ (i : Instr) (s : State), s.transportAnswers (requestsOf i s).length = true →
    ∃ t code data, exec i s = .next t ∧ t.resets = s.resets ∧ s.responded t code data
end

