-- ==== Sys2Proof/Laws/Decode.lean ====
section
/-! SUPPORT. The fields of a packed command word (R52), and which row of the opcode map a word matches (R55). -/

namespace Sys2Proof

/-! Fields. -/

theorem extract_high {a b : Nat} (hi : BitVec a) (lo : BitVec b) : (hi ++ lo).extractLsb' b a = hi := by
  rw [BitVec.extractLsb'_append_eq_of_le (Nat.le_refl b)]
  simp

theorem extract_low {a b start len : Nat} (hi : BitVec a) (lo : BitVec b) (h : start + len ≤ b) :
    (hi ++ lo).extractLsb' start len = lo.extractLsb' start len := BitVec.extractLsb'_append_eq_of_add_le h

@[simp] theorem opcField_packWord (opc : Byte) (x y len : Half) (arg : Byte) :
    opcField (packWord opc x y len arg) = opc := extract_high opc (x ++ (y ++ (len ++ arg)))

@[simp] theorem xField_packWord (opc : Byte) (x y len : Half) (arg : Byte) :
    xField (packWord opc x y len arg) = x :=
  (extract_low opc (x ++ (y ++ (len ++ arg))) (by decide)).trans (extract_high x (y ++ (len ++ arg)))

@[simp] theorem yField_packWord (opc : Byte) (x y len : Half) (arg : Byte) :
    yField (packWord opc x y len arg) = y :=
  (extract_low opc (x ++ (y ++ (len ++ arg))) (by decide)).trans <|
    (extract_low x (y ++ (len ++ arg)) (by decide)).trans (extract_high y (len ++ arg))

@[simp] theorem lenField_packWord (opc : Byte) (x y len : Half) (arg : Byte) :
    lenField (packWord opc x y len arg) = len :=
  (extract_low opc (x ++ (y ++ (len ++ arg))) (by decide)).trans <|
    (extract_low x (y ++ (len ++ arg)) (by decide)).trans <|
      (extract_low y (len ++ arg) (by decide)).trans (extract_high len arg)

@[simp] theorem argField_packWord (opc : Byte) (x y len : Half) (arg : Byte) :
    argField (packWord opc x y len arg) = arg :=
  (extract_low opc (x ++ (y ++ (len ++ arg))) (by decide)).trans <|
    (extract_low x (y ++ (len ++ arg)) (by decide)).trans <|
      (extract_low y (len ++ arg) (by decide)).trans <|
        (extract_low len arg (by decide)).trans (by simp)

theorem onField_eq (w : Word64) : onField w = (argField w).getLsbD 0 := by
  simp [onField, argField]

theorem countField_eq (w : Word64) : countField w = (lenField w).extractLsb' 0 8 := by
  ext i hi
  simp [countField, lenField, show i < 16 by omega]

@[simp] theorem onField_packWord (opc : Byte) (x y len : Half) (arg : Byte) :
    onField (packWord opc x y len arg) = arg[0] := by rw [onField_eq, argField_packWord]; rfl

@[simp] theorem countField_packWord (opc : Byte) (x y len : Half) (arg : Byte) :
    countField (packWord opc x y len arg) = len.extractLsb' 0 8 := by rw [countField_eq, lenField_packWord]

@[simp] theorem argOfOn_getElem_zero (on : Bool) : (Machine.argOfOn on)[0] = on := by cases on <;> rfl

theorem extract_append {m : Nat} (w : BitVec m) (n k : Nat) :
    w.extractLsb' k n ++ w.extractLsb' 0 k = w.extractLsb' 0 (n + k) := by
  ext i hi
  rw [BitVec.getElem_append]
  split
  · simp
  · simp [show k + (i - k) = i by omega]

/-- A word is its five fields (R52). -/
theorem packWord_fields (w : Word64) :
    packWord (opcField w) (xField w) (yField w) (lenField w) (argField w) = w := by
  have h4 : lenField w ++ argField w = w.extractLsb' 0 24 := extract_append w 16 8
  have h3 : yField w ++ w.extractLsb' 0 24 = w.extractLsb' 0 40 := extract_append w 16 24
  have h2 : xField w ++ w.extractLsb' 0 40 = w.extractLsb' 0 56 := extract_append w 16 40
  have h1 : opcField w ++ w.extractLsb' 0 56 = w.extractLsb' 0 64 := extract_append w 8 56
  calc packWord (opcField w) (xField w) (yField w) (lenField w) (argField w)
      = opcField w ++ (xField w ++ (yField w ++ w.extractLsb' 0 24)) :=
        congrArg (fun v : BitVec 24 => (opcField w ++ (xField w ++ (yField w ++ v)) : BitVec (8 + (16 + (16 + 24))))) h4
    _ = opcField w ++ (xField w ++ w.extractLsb' 0 40) :=
        congrArg (fun v : BitVec 40 => (opcField w ++ (xField w ++ v) : BitVec (8 + (16 + 40)))) h3
    _ = opcField w ++ w.extractLsb' 0 56 := congrArg (fun v : BitVec 56 => (opcField w ++ v : BitVec (8 + 56))) h2
    _ = w.extractLsb' 0 64 := h1
    _ = w := BitVec.extractLsb'_eq_self

/-! The opcode map (R55), read field by field. -/

theorem packWord_and (o o' : Byte) (x x' y y' l l' : Half) (a a' : Byte) :
    packWord o x y l a &&& packWord o' x' y' l' a'
      = packWord (o &&& o') (x &&& x') (y &&& y') (l &&& l') (a &&& a') := by
  unfold packWord
  refine (BitVec.and_append (x₁ := o) (x₂ := o') (y₁ := x ++ (y ++ (l ++ a))) (y₂ := x' ++ (y' ++ (l' ++ a')))).trans ?_
  congr 1
  refine (BitVec.and_append (x₁ := x) (x₂ := x') (y₁ := y ++ (l ++ a)) (y₂ := y' ++ (l' ++ a'))).trans ?_
  congr 1
  refine (BitVec.and_append (x₁ := y) (x₂ := y') (y₁ := l ++ a) (y₂ := l' ++ a')).trans ?_
  congr 1
  exact BitVec.and_append

theorem packWord_inj {o o' : Byte} {x x' y y' l l' : Half} {a a' : Byte} :
    packWord o x y l a = packWord o' x' y' l' a' ↔ o = o' ∧ x = x' ∧ y = y' ∧ l = l' ∧ a = a' := by
  constructor
  · intro h
    refine ⟨?_, ?_, ?_, ?_, ?_⟩
    · simpa using congrArg opcField h
    · simpa using congrArg xField h
    · simpa using congrArg yField h
    · simpa using congrArg lenField h
    · simpa using congrArg argField h
  · rintro ⟨rfl, rfl, rfl, rfl, rfl⟩
    rfl

/-- A row accepts a word when each of the word's fields, under the mask's field, is the value's field (R55). -/
theorem OpRow.accepts_iff (r : OpRow) (w : Word64) :
    r.accepts w = true ↔
      opcField w &&& opcField r.mask = opcField r.value ∧ xField w &&& xField r.mask = xField r.value
        ∧ yField w &&& yField r.mask = yField r.value ∧ lenField w &&& lenField r.mask = lenField r.value
        ∧ argField w &&& argField r.mask = argField r.value := by
  rw [OpRow.accepts, beq_iff_eq, ← packWord_inj, ← packWord_and, packWord_fields, packWord_fields, packWord_fields]

/-- The opcode byte of a row (R54). -/
def Op.code : Op → Byte
  | .clear => 0x01#8
  | .setpx => 0x02#8
  | .getpx => 0x03#8
  | .hline => 0x04#8
  | .vline => 0x05#8
  | .char => 0x06#8
  | .str => 0x07#8
  | .init => 0x08#8
  | .flush => 0x09#8
  | .status => 0x0A#8

/-- What R55's third column says of a word's fields, opcode by opcode. -/
def Op.fieldsOk (op : Op) (w : Word64) : Prop :=
  match op with
  | .clear => xField w = 0#16 ∧ yField w = 0#16 ∧ lenField w = 0#16 ∧ argField w = 0#8
  | .setpx => lenField w = 0#16 ∧ argField w &&& 0xFE#8 = 0#8
  | .getpx => lenField w = 0#16 ∧ argField w = 0#8
  | .hline => argField w &&& 0xFE#8 = 0#8
  | .vline => argField w &&& 0xFE#8 = 0#8
  | .char => lenField w = 0#16
  | .str => lenField w &&& 0xFF00#16 = 0#16 ∧ argField w = 0#8
  | .init => xField w = 0#16 ∧ yField w = 0#16 ∧ lenField w = 0#16 ∧ argField w = 0#8
  | .flush => xField w = 0#16 ∧ yField w = 0#16 ∧ lenField w = 0#16 ∧ argField w = 0#8
  | .status => xField w = 0#16 ∧ yField w = 0#16 ∧ lenField w = 0#16 ∧ argField w = 0#8

theorem opcodeTable_row (r : OpRow) (hr : r ∈ opcodeTable) (w : Word64) :
    r.accepts w = true ↔ opcField w = r.op.code ∧ r.op.fieldsOk w := by
  rw [OpRow.accepts_iff]
  have ones8 : ∀ v : Byte, v &&& 0xFF#8 = v := fun v => BitVec.and_allOnes
  have ones16 : ∀ v : Half, v &&& 0xFFFF#16 = v := fun v => BitVec.and_allOnes
  fin_cases hr <;>
    simp [opcField, xField, yField, lenField, argField, Op.code, Op.fieldsOk, ones8, ones16]

/-- The row a word matches is the one its opcode names, if its must-be-zero fields are zero (R54, R55). -/
theorem classify_eq_some {w : Word64} {op : Op} :
    classify w = some op ↔ opcField w = op.code ∧ op.fieldsOk w := by
  have hrow : ∀ op : Op, ∃ r ∈ opcodeTable, r.op = op := by intro op; cases op <;> decide
  have hcode : ∀ a b : Op, a.code = b.code → a = b := by intro a b; cases a <;> cases b <;> simp [Op.code]
  unfold classify
  constructor
  · intro h
    obtain ⟨r, hf, rfl⟩ := Option.map_eq_some_iff.1 h
    exact (opcodeTable_row r (List.mem_of_find?_eq_some hf) w).1 (List.find?_some (p := fun r : OpRow => r.accepts w) hf)
  · intro h
    obtain ⟨r, hr, rfl⟩ := hrow op
    have hacc := (opcodeTable_row r hr w).2 h
    cases hf : opcodeTable.find? fun r => r.accepts w with
    | none => exact absurd hacc (by simpa using List.find?_eq_none.1 hf r hr)
    | some r' =>
      have h' := (opcodeTable_row r' (List.mem_of_find?_eq_some hf) w).1 (List.find?_some (p := fun r : OpRow => r.accepts w) hf)
      simp [hcode r'.op r.op (h'.1.symm.trans h.1)]

end Sys2Proof
end

