-- ==== Sys2Proof/Laws/Memory.lean ====
section
/-! SUPPORT. What memory operations do: read after write, the canonical form kept, memories equal when they read equal. -/

namespace Sys2Proof.Machine

theorem Memory.canonicalFrom_mono {size low low' : Nat} {m : Memory} (h : low' ≤ low)
    (hm : m.canonicalFrom size low = true) : m.canonicalFrom size low' = true := by
  cases m with
  | nil => rfl
  | cons c rest =>
    obtain ⟨a, v⟩ := c
    simp only [canonicalFrom, Bool.and_eq_true, decide_eq_true_eq] at hm ⊢
    exact ⟨⟨by omega, hm.1.2⟩, hm.2⟩

theorem Memory.read_below {size low a : Nat} {m : Memory} (hm : m.canonicalFrom size low = true) (h : a < low) :
    m.read a = unlisted := by
  induction m generalizing low with
  | nil => rfl
  | cons c rest ih =>
    obtain ⟨b, v⟩ := c
    simp only [canonicalFrom, Bool.and_eq_true, decide_eq_true_eq] at hm
    rw [read, if_neg (by omega)]
    exact ih hm.2 (by omega)

theorem Memory.read_beyond {size low a : Nat} {m : Memory} (hm : m.canonicalFrom size low = true) (h : size ≤ a) :
    m.read a = unlisted := by
  induction m generalizing low with
  | nil => rfl
  | cons c rest ih =>
    obtain ⟨b, v⟩ := c
    simp only [canonicalFrom, Bool.and_eq_true, decide_eq_true_eq] at hm
    rw [read, if_neg (by omega)]
    exact ih hm.2

theorem Memory.read_put {a b : Nat} {v : Byte} {rest : Memory} (h : rest.read a = unlisted) :
    (put a v rest).read b = if b = a then v else rest.read b := by
  unfold put
  split
  · rename_i hv
    split
    · subst_vars; exact h
    · rfl
  · rfl

/-- A read after a write gives the written byte at its address and the earlier byte everywhere else. -/
theorem Memory.read_write_from {size low : Nat} {m : Memory} (hm : m.canonicalFrom size low = true)
    (a : Nat) (v : Byte) (b : Nat) : (m.write a v).read b = if b = a then v else m.read b := by
  induction m generalizing low with
  | nil => exact read_put rfl
  | cons c rest ih =>
    obtain ⟨k, u⟩ := c
    have hm' := hm
    simp only [canonicalFrom, Bool.and_eq_true, decide_eq_true_eq] at hm
    rw [write]
    split
    · rename_i hlt
      refine read_put ?_
      rw [read, if_neg (by omega)]
      exact read_below hm.2 (by omega)
    · split
      · rename_i heq
        subst heq
        rw [read_put (read_below hm.2 (by omega)), read]
        split <;> simp_all
      · rename_i h1 h2
        rw [read, read, ih hm.2]
        split
        · rw [if_neg (by omega)]
        · rfl

theorem Memory.put_canonical {size low a : Nat} {v : Byte} {rest : Memory} (hl : low ≤ a) (ha : a < size)
    (h : rest.canonicalFrom size (a + 1) = true) : (put a v rest).canonicalFrom size low = true := by
  unfold put
  split
  · exact canonicalFrom_mono (by omega) h
  · rename_i hv
    simp [canonicalFrom, h, hl, ha, hv]

theorem Memory.write_canonicalFrom {size low : Nat} {m : Memory} (hm : m.canonicalFrom size low = true)
    {a : Nat} (hl : low ≤ a) (ha : a < size) (v : Byte) : (m.write a v).canonicalFrom size low = true := by
  induction m generalizing low with
  | nil => exact put_canonical hl ha rfl
  | cons c rest ih =>
    obtain ⟨k, u⟩ := c
    simp only [canonicalFrom, Bool.and_eq_true, decide_eq_true_eq] at hm
    rw [write]
    split
    · rename_i hlt
      refine put_canonical hl ha ?_
      simp only [canonicalFrom, Bool.and_eq_true, decide_eq_true_eq]
      exact ⟨⟨by omega, hm.1.2⟩, hm.2⟩
    · split
      · rename_i heq
        subst heq
        exact put_canonical hl ha hm.2
      · rename_i h1 h2
        simp only [canonicalFrom, Bool.and_eq_true, decide_eq_true_eq]
        exact ⟨hm.1, ih hm.2 (by omega)⟩

/-- A read after a write, on a memory in canonical form. -/
theorem Memory.read_write {size : Nat} {m : Memory} (hm : m.wf size = true) (a : Nat) (v : Byte) (b : Nat) :
    (m.write a v).read b = if b = a then v else m.read b := read_write_from hm a v b

/-- A write keeps the canonical form. -/
theorem Memory.write_wf {size : Nat} {m : Memory} (hm : m.wf size = true) {a : Nat} (ha : a < size) (v : Byte) :
    (m.write a v).wf size = true := write_canonicalFrom hm (Nat.zero_le a) ha v

theorem Memory.ext_from {size low : Nat} {m m' : Memory} (hm : m.canonicalFrom size low = true)
    (hm' : m'.canonicalFrom size low = true) (h : ∀ a, m.read a = m'.read a) : m = m' := by
  induction m generalizing m' low with
  | nil =>
    cases m' with
    | nil => rfl
    | cons c rest =>
      obtain ⟨k, u⟩ := c
      simp only [canonicalFrom, Bool.and_eq_true, decide_eq_true_eq] at hm'
      have := h k
      simp only [read, if_true] at this
      exact absurd this.symm hm'.1.2.2
  | cons c rest ih =>
    obtain ⟨k, u⟩ := c
    have hk : canonicalFrom size k ((k, u) :: rest) = true := by
      simp only [canonicalFrom, Bool.and_eq_true, decide_eq_true_eq] at hm ⊢
      exact ⟨⟨by omega, hm.1.2⟩, hm.2⟩
    simp only [canonicalFrom, Bool.and_eq_true, decide_eq_true_eq] at hm
    cases m' with
    | nil =>
      have := h k
      simp only [read, if_true] at this
      exact absurd this hm.1.2.2
    | cons c' rest' =>
      obtain ⟨k', u'⟩ := c'
      have hk' : canonicalFrom size k' ((k', u') :: rest') = true := by
        simp only [canonicalFrom, Bool.and_eq_true, decide_eq_true_eq] at hm' ⊢
        exact ⟨⟨by omega, hm'.1.2⟩, hm'.2⟩
      simp only [canonicalFrom, Bool.and_eq_true, decide_eq_true_eq] at hm'
      have hkk : k = k' := by
        rcases Nat.lt_trichotomy k k' with hlt | heq | hgt
        · have h1 := h k
          rw [read_below hk' hlt] at h1
          simp only [read, if_true] at h1
          exact absurd h1 hm.1.2.2
        · exact heq
        · have h1 := h k'
          rw [read_below hk hgt] at h1
          simp only [read, if_true] at h1
          exact absurd h1.symm hm'.1.2.2
      subst hkk
      have hu : u = u' := by simpa [read] using h k
      subst hu
      congr 1
      refine ih hm.2 hm'.2 fun a => ?_
      by_cases ha : a = k
      · subst ha
        rw [read_below hm.2 (by omega), read_below hm'.2 (by omega)]
      · simpa [read, ha] using h a

/-- Memories in canonical form that read equal everywhere are equal data. -/
theorem Memory.ext {size : Nat} {m m' : Memory} (hm : m.wf size = true) (hm' : m'.wf size = true)
    (h : ∀ a, m.read a = m'.read a) : m = m' := ext_from hm hm' h

theorem Memory.ofBytes_canonicalFrom (size n low : Nat) (f : Nat → Byte) (h : low + n ≤ size) :
    Memory.canonicalFrom size low
      ((List.range' low n).filterMap fun a => if f a = unlisted then none else some (a, f a)) = true := by
  induction n generalizing low with
  | zero => rfl
  | succ n ih =>
    rw [List.range'_succ, List.filterMap_cons]
    by_cases hv : f low = unlisted
    · simp only [hv, if_true]
      exact canonicalFrom_mono (Nat.le_succ low) (ih (low + 1) (by omega))
    · simp only [hv, if_false, canonicalFrom, Bool.and_eq_true, decide_eq_true_eq]
      exact ⟨⟨le_refl _, by omega, hv⟩, ih (low + 1) (by omega)⟩

/-- A memory made from its bytes is in canonical form. -/
theorem Memory.ofBytes_wf (size : Nat) (f : Nat → Byte) : (ofBytes size f).wf size = true := by
  unfold ofBytes wf
  rw [List.range_eq_range']
  exact ofBytes_canonicalFrom size size 0 f (by omega)

theorem Memory.read_filterMap (low n : Nat) (f : Nat → Byte) (a : Nat) :
    Memory.read ((List.range' low n).filterMap fun a => if f a = unlisted then none else some (a, f a)) a
      = if low ≤ a ∧ a < low + n then f a else unlisted := by
  induction n generalizing low with
  | zero => simp [read]
  | succ n ih =>
    rw [List.range'_succ, List.filterMap_cons]
    by_cases hv : f low = unlisted
    · simp only [hv, if_true]
      rw [ih]
      by_cases ha : a = low
      · subst ha; simp [hv]
      · have : (low + 1 ≤ a ∧ a < low + 1 + n) ↔ (low ≤ a ∧ a < low + (n + 1)) := by omega
        simp only [this]
    · simp only [hv, if_false, read]
      by_cases ha : a = low
      · subst ha; simp
      · rw [if_neg ha, ih]
        have : (low + 1 ≤ a ∧ a < low + 1 + n) ↔ (low ≤ a ∧ a < low + (n + 1)) := by omega
        simp only [this]

/-- A memory made from its bytes reads as they are. -/
theorem Memory.read_ofBytes (size : Nat) (f : Nat → Byte) (a : Nat) :
    (ofBytes size f).read a = if a < size then f a else unlisted := by
  unfold ofBytes
  rw [List.range_eq_range', read_filterMap]
  simp

@[simp] theorem Memory.length_slice (m : Memory) (first count : Nat) : (m.slice first count).length = count := by
  simp [slice]

theorem Memory.getElem_slice (m : Memory) (first count k : Nat) (h : k < (m.slice first count).length) :
    (m.slice first count)[k] = m.read (first + k) := by
  simp [slice]

/-- CLEAR leaves a memory in canonical form. -/
theorem clearFb_wf (c : Config) (m : Memory) (size : Nat) : (clearFb c m).wf size = true := rfl

/-- After CLEAR every byte is 0x00 (R75). -/
@[simp] theorem read_clearFb (c : Config) (m : Memory) (a : Nat) : (clearFb c m).read a = 0x00#8 := rfl

end Sys2Proof.Machine
end

