-- ==== Sys2Proof/Laws/Pixel.lean ====
section
/-! SUPPORT. The pixel mapper: addresses in range and one to one (R37), what SetPixel does (R73), and what a list of pixel writes does (R79, R85, R92). -/

namespace Sys2Proof.Machine

/-! Geometry (R6, R7). -/

theorem Config.geometry {c : Config} (hc : c.valid = true) :
    1 ≤ c.width ∧ c.width ≤ 32767 ∧ 8 ≤ c.height ∧ c.height ≤ 128 ∧ c.height % 8 = 0 := by
  simp only [Config.valid, Config.geometryOk, Bool.and_eq_true, decide_eq_true_eq] at hc
  exact hc.1.1.1

theorem Config.height_eq {c : Config} (hc : c.valid = true) : c.height = 8 * c.pages := by
  have := Config.geometry hc
  unfold Config.pages
  omega

/-- FB_SIZE = PAGES * WIDTH (R6). -/
theorem Config.fbSize_eq {c : Config} (hc : c.valid = true) : c.fbSize = c.pages * c.width := by
  unfold Config.fbSize
  rw [Config.height_eq hc, Nat.mul_left_comm, Nat.mul_div_cancel_left _ (by norm_num), Nat.mul_comm]

/-! Addresses (R35 to R37). -/

theorem inBounds_iff {c : Config} {x y : Int} :
    inBounds c x y = true ↔ 0 ≤ x ∧ x < c.width ∧ 0 ≤ y ∧ y < c.height := by
  simp [inBounds]

theorem bitNo_lt (y : Int) : bitNo y < 8 := by unfold bitNo; omega

theorem page_lt {c : Config} {x y : Int} (hc : c.valid = true) (h : inBounds c x y = true) : page y < c.pages := by
  have := inBounds_iff.1 h
  have := Config.height_eq hc
  unfold page
  omega

/-- An in-bounds pixel's byte lies in the framebuffer (R37 item 1). -/
theorem byteIndex_lt {c : Config} {x y : Int} (hc : c.valid = true) (h : inBounds c x y = true) :
    byteIndex c x y < c.fbSize := by
  have hp := page_lt hc h
  have hb := inBounds_iff.1 h
  rw [Config.fbSize_eq hc]
  have : (page y + 1) * c.width ≤ c.pages * c.width := Nat.mul_le_mul_right _ hp
  unfold byteIndex
  rw [Nat.add_mul] at this
  omega

theorem byteIndex_mod {c : Config} {x y : Int} (h : inBounds c x y = true) : byteIndex c x y % c.width = x.toNat := by
  have hb := inBounds_iff.1 h
  unfold byteIndex
  rw [Nat.mul_comm, Nat.mul_add_mod, Nat.mod_eq_of_lt (by omega)]

theorem byteIndex_div {c : Config} {x y : Int} (h : inBounds c x y = true) : byteIndex c x y / c.width = page y := by
  have hb := inBounds_iff.1 h
  unfold byteIndex
  rw [Nat.mul_comm, Nat.mul_add_div (by omega), Nat.div_eq_of_lt (by omega), Nat.add_zero]

/-- Two in-bounds pixels share a byte exactly when they have the same x and the same page (R37 item 3). -/
theorem byteIndex_eq_iff {c : Config} {x y x' y' : Int} (h : inBounds c x y = true) (h' : inBounds c x' y' = true) :
    byteIndex c x y = byteIndex c x' y' ↔ x = x' ∧ page y = page y' := by
  have hb := inBounds_iff.1 h
  have hb' := inBounds_iff.1 h'
  constructor
  · intro he
    have h1 := byteIndex_mod h
    have h2 := byteIndex_div h
    rw [he] at h1 h2
    rw [byteIndex_mod h'] at h1
    rw [byteIndex_div h'] at h2
    exact ⟨by omega, h2.symm⟩
  · rintro ⟨rfl, hp⟩
    simp [byteIndex, hp]

/-- No two in-bounds pixels share a bit (R37 item 2). -/
theorem pixel_unique {c : Config} {x y x' y' : Int} (h : inBounds c x y = true) (h' : inBounds c x' y' = true)
    (ha : byteIndex c x y = byteIndex c x' y') (hb : bitNo y = bitNo y') : x = x' ∧ y = y' := by
  obtain ⟨rfl, hp⟩ := (byteIndex_eq_iff h h').1 ha
  have := inBounds_iff.1 h
  have := inBounds_iff.1 h'
  unfold page at hp
  unfold bitNo at hb
  exact ⟨rfl, by omega⟩

/-- Every in-bounds pixel is the pixel of its own byte and bit (R37 item 2). -/
theorem pixelOf_byteIndex {c : Config} {x y : Int} (h : inBounds c x y = true) :
    pixelOf c (byteIndex c x y) (bitNo y) = (x, y) := by
  have := inBounds_iff.1 h
  unfold pixelOf
  rw [byteIndex_mod h, byteIndex_div h]
  unfold page bitNo
  ext <;> simp only <;> omega

/-! One bit of a byte (R38). -/

/-- The mask changes the one bit and no other (R73). -/
theorem putBit_getLsbD (old : Byte) (on : Bool) {n b : Nat} (hn : n < 8) (hb : b < 8) :
    (putBit old n on).getLsbD b = if b = n then on else old.getLsbD b := by
  unfold putBit
  cases on <;> interval_cases n <;> interval_cases b <;> simp

/-! SetPixel (R73). -/

theorem setPixel_out {c : Config} {x y : Int} (on : Bool) (m : Memory) (h : inBounds c x y = false) :
    setPixel c x y on m = m := by simp [setPixel, h]

theorem setPixel_wf {c : Config} (hc : c.valid = true) (x y : Int) (on : Bool) {m : Memory}
    (hm : m.wf c.fbSize = true) : (setPixel c x y on m).wf c.fbSize = true := by
  unfold setPixel
  split
  · exact Memory.write_wf hm (byteIndex_lt hc ‹_›) _
  · exact hm

/-- SetPixel leaves every byte but the pixel's own. -/
theorem read_setPixel_ne {c : Config} {x y : Int} {on : Bool} {m : Memory} (hm : m.wf c.fbSize = true) {a : Nat}
    (h : inBounds c x y = true → a ≠ byteIndex c x y) : (setPixel c x y on m).read a = m.read a := by
  unfold setPixel
  split
  · rw [Memory.read_write hm, if_neg (h ‹_›)]
  · rfl

/-- SetPixel sets the pixel and no other (R79 items 1 to 3). -/
theorem getPixel_setPixel {c : Config} {x y : Int} {on : Bool} {m : Memory} (hm : m.wf c.fbSize = true) {x' y' : Int}
    (h' : inBounds c x' y' = true) :
    getPixel c (setPixel c x y on m) x' y' = if x' = x ∧ y' = y then on else getPixel c m x' y' := by
  unfold getPixel setPixel
  simp only [h', Bool.true_and]
  split
  · rename_i h
    rw [Memory.read_write hm]
    by_cases ha : byteIndex c x' y' = byteIndex c x y
    · rw [if_pos ha, putBit_getLsbD _ _ (bitNo_lt y) (bitNo_lt y'), ha]
      by_cases hb : bitNo y' = bitNo y
      · rw [if_pos hb, if_pos (pixel_unique h' h ha hb)]
      · rw [if_neg hb, if_neg (fun hxy => hb (by rw [hxy.2]))]
    · rw [if_neg ha, if_neg]
      rintro ⟨rfl, rfl⟩
      exact ha rfl
  · rename_i h
    rw [if_neg]
    rintro ⟨rfl, rfl⟩
    exact h h'

/-! Lists of pixel writes. Every drawing operation is one. -/

/-- SetPixel for each entry of a list, in order. -/
def paint (c : Config) (ps : List (Int × Int × Bool)) (m : Memory) : Memory :=
  ps.foldl (fun m p => setPixel c p.1 p.2.1 p.2.2 m) m

@[simp] theorem paint_nil (c : Config) (m : Memory) : paint c [] m = m := rfl

@[simp] theorem paint_cons (c : Config) (p : Int × Int × Bool) (ps : List (Int × Int × Bool)) (m : Memory) :
    paint c (p :: ps) m = paint c ps (setPixel c p.1 p.2.1 p.2.2 m) := rfl

theorem paint_append (c : Config) (ps qs : List (Int × Int × Bool)) (m : Memory) :
    paint c (ps ++ qs) m = paint c qs (paint c ps m) := by
  simp [paint, List.foldl_append]

theorem paint_wf {c : Config} (hc : c.valid = true) (ps : List (Int × Int × Bool)) {m : Memory}
    (hm : m.wf c.fbSize = true) : (paint c ps m).wf c.fbSize = true := by
  induction ps generalizing m with
  | nil => exact hm
  | cons p ps ih => exact ih (setPixel_wf hc _ _ _ hm)

/-- A list of pixel writes leaves every byte that holds none of its pixels. -/
theorem read_paint_ne {c : Config} (hc : c.valid = true) (ps : List (Int × Int × Bool)) {m : Memory}
    (hm : m.wf c.fbSize = true) {a : Nat}
    (h : ∀ p ∈ ps, inBounds c p.1 p.2.1 = true → a ≠ byteIndex c p.1 p.2.1) : (paint c ps m).read a = m.read a := by
  induction ps generalizing m with
  | nil => rfl
  | cons p ps ih =>
    rw [paint_cons, ih (setPixel_wf hc _ _ _ hm) fun q hq => h q (List.mem_cons_of_mem _ hq)]
    exact read_setPixel_ne hm (h p List.mem_cons_self)

/-- A pixel that no entry of the list names keeps its value. -/
theorem getPixel_paint_ne {c : Config} (hc : c.valid = true) (ps : List (Int × Int × Bool)) {m : Memory}
    (hm : m.wf c.fbSize = true) {x y : Int} (hxy : inBounds c x y = true)
    (h : ∀ p ∈ ps, ¬(x = p.1 ∧ y = p.2.1)) : getPixel c (paint c ps m) x y = getPixel c m x y := by
  induction ps generalizing m with
  | nil => rfl
  | cons p ps ih =>
    rw [paint_cons, ih (setPixel_wf hc _ _ _ hm) fun q hq => h q (List.mem_cons_of_mem _ hq),
      getPixel_setPixel hm hxy, if_neg (h p List.mem_cons_self)]

/-- A pixel that some entry names, and every entry naming it with the same value, has that value. -/
theorem getPixel_paint_eq {c : Config} (hc : c.valid = true) (ps : List (Int × Int × Bool)) {m : Memory}
    (hm : m.wf c.fbSize = true) {x y : Int} (hxy : inBounds c x y = true) {v : Bool}
    (hv : ∀ p ∈ ps, x = p.1 ∧ y = p.2.1 → p.2.2 = v) (h : ∃ p ∈ ps, x = p.1 ∧ y = p.2.1) :
    getPixel c (paint c ps m) x y = v := by
  induction ps generalizing m with
  | nil => simp at h
  | cons p ps ih =>
    rw [paint_cons]
    by_cases hrest : ∃ q ∈ ps, x = q.1 ∧ y = q.2.1
    · exact ih (setPixel_wf hc _ _ _ hm) (fun q hq => hv q (List.mem_cons_of_mem _ hq)) hrest
    · rw [getPixel_paint_ne hc ps (setPixel_wf hc _ _ _ hm) hxy fun q hq hh => hrest ⟨q, hq, hh⟩,
        getPixel_setPixel hm hxy]
      obtain ⟨q, hq, hh⟩ := h
      rcases List.mem_cons.1 hq with rfl | hq
      · rw [if_pos hh]
        exact hv q List.mem_cons_self hh
      · exact absurd ⟨q, hq, hh⟩ hrest

/-! The drawing operations as lists of pixel writes. -/

theorem drawHline_eq_paint (c : Config) (x y : Int) (len : Nat) (on : Bool) (m : Memory) :
    drawHline c x y len on m = paint c ((List.range len).map fun k : Nat => (x + (k : Int), y, on)) m := by
  simp [drawHline, paint, List.foldl_map]

theorem drawVline_eq_paint (c : Config) (x y : Int) (len : Nat) (on : Bool) (m : Memory) :
    drawVline c x y len on m = paint c ((List.range len).map fun k : Nat => (x, y + (k : Int), on)) m := by
  simp [drawVline, paint, List.foldl_map]

/-- The pixel writes of one column of a cell. -/
def columnPixels (x y : Int) (col : Byte) : List (Int × Int × Bool) :=
  (List.range 8).map fun j : Nat => (x, y + (j : Int), col.getLsbD j)

theorem drawColumn_eq_paint (c : Config) (x y : Int) (col : Byte) (m : Memory) :
    drawColumn c x y col m = paint c (columnPixels x y col) m := by
  simp [drawColumn, columnPixels, paint, List.foldl_map]

/-- The pixel writes of one character (R87). -/
def charPixels (c : Config) (x y : Int) (ch : Byte) : List (Int × Int × Bool) :=
  match glyphOf c ch with
  | none => []
  | some g => (List.range 6).flatMap fun i : Nat => columnPixels (x + (i : Int)) y (glyphColumn g i)

theorem foldl_flatMap_paint (c : Config) (f : Nat → List (Int × Int × Bool)) (l : List Nat) (m : Memory) :
    l.foldl (fun m i => paint c (f i) m) m = paint c (l.flatMap f) m := by
  induction l generalizing m with
  | nil => rfl
  | cons i l ih => rw [List.foldl_cons, List.flatMap_cons, paint_append, ih]

theorem drawChar_eq_paint (c : Config) (x y : Int) (ch : Byte) (m : Memory) :
    drawChar c x y ch m = paint c (charPixels c x y ch) m := by
  unfold drawChar charPixels
  cases glyphOf c ch with
  | none => rfl
  | some g =>
    simp only [drawColumn_eq_paint]
    exact foldl_flatMap_paint _ _ _ _

/-- The pixel writes of a text from character `n` on (R90). -/
def textPixels (c : Config) (x y : Int) : Nat → List Byte → List (Int × Int × Bool)
  | _, [] => []
  | n, ch :: text => charPixels c (x + 6 * (n : Int)) y ch ++ textPixels c x y (n + 1) text

theorem drawText_eq_paint (c : Config) (x y : Int) (n : Nat) (text : List Byte) (m : Memory) :
    drawText c x y n text m = paint c (textPixels c x y n text) m := by
  induction text generalizing n m with
  | nil => rfl
  | cons ch text ih => rw [drawText, textPixels, paint_append, ih, drawChar_eq_paint]

/-- An entry of a character's pixel writes: a cell position and its glyph bit (R87). -/
theorem mem_charPixels {c : Config} {x y : Int} {ch : Byte} {p : Int × Int × Bool} :
    p ∈ charPixels c x y ch ↔ ∃ g, glyphOf c ch = some g ∧ ∃ i j : Nat, i < 6 ∧ j < 8 ∧
      p = (x + (i : Int), y + (j : Int), (glyphColumn g i).getLsbD j) := by
  unfold charPixels columnPixels
  split
  · simp [*]
  · rename_i g hg
    simp only [List.mem_flatMap, List.mem_range, List.mem_map, hg, Option.some.injEq, exists_eq_left']
    constructor
    · rintro ⟨i, hi, j, hj, rfl⟩
      exact ⟨i, j, hi, hj, rfl⟩
    · rintro ⟨i, j, hi, hj, rfl⟩
      exact ⟨i, hi, j, hj, rfl⟩

/-- An entry of a text's pixel writes: a character of the text and an entry of its cell (R90). -/
theorem mem_textPixels {c : Config} {x y : Int} {n : Nat} {text : List Byte} {p : Int × Int × Bool} :
    p ∈ textPixels c x y n text ↔ ∃ s : Nat, ∃ h : s < text.length,
      p ∈ charPixels c (x + 6 * ((n + s : Nat) : Int)) y text[s] := by
  induction text generalizing n with
  | nil => simp [textPixels]
  | cons ch text ih =>
    rw [textPixels, List.mem_append, ih]
    constructor
    · rintro (h | ⟨s, hs, h⟩)
      · exact ⟨0, by simp, by simpa using h⟩
      · refine ⟨s + 1, by simpa using hs, ?_⟩
        have : n + 1 + s = n + (s + 1) := by omega
        rw [this] at h
        simpa using h
    · rintro ⟨s, hs, h⟩
      cases s with
      | zero => exact .inl (by simpa using h)
      | succ s =>
        refine .inr ⟨s, by simpa using hs, ?_⟩
        have : n + 1 + s = n + (s + 1) := by omega
        rw [this]
        simpa using h

end Sys2Proof.Machine
end

