-- ==== Sys2Proof/Laws/Draw.lean ====
section
/-! SUPPORT. What each drawing operation does to a framebuffer: its canonical form, its pixels, and the bytes it leaves (R81, R82, R87, R90). -/

namespace Sys2Proof.Machine

/-! HLINE and VLINE (R81, R82). -/

theorem drawHline_wf {c : Config} (hc : c.valid = true) (x y : Int) (len : Nat) (on : Bool) {m : Memory}
    (hm : m.wf c.fbSize = true) : (drawHline c x y len on m).wf c.fbSize = true := by
  rw [drawHline_eq_paint]
  exact paint_wf hc _ hm

theorem read_drawHline_ne {c : Config} (hc : c.valid = true) {x y : Int} {len : Nat} {on : Bool} {m : Memory}
    (hm : m.wf c.fbSize = true) {a : Nat}
    (h : ∀ k : Nat, k < len → inBounds c (x + k) y = true → a ≠ byteIndex c (x + k) y) :
    (drawHline c x y len on m).read a = m.read a := by
  rw [drawHline_eq_paint]
  refine read_paint_ne hc _ hm fun p hp => ?_
  obtain ⟨k, hk, rfl⟩ := List.mem_map.1 hp
  exact h k (List.mem_range.1 hk)

theorem getPixel_drawHline {c : Config} (hc : c.valid = true) {x y : Int} {len : Nat} {on : Bool} {m : Memory}
    (hm : m.wf c.fbSize = true) {x' y' : Int} (h : inBounds c x' y' = true) :
    getPixel c (drawHline c x y len on m) x' y'
      = if y' = y ∧ x ≤ x' ∧ x' < x + len then on else getPixel c m x' y' := by
  rw [drawHline_eq_paint]
  split
  · rename_i hin
    refine getPixel_paint_eq hc _ hm h (fun p hp _ => ?_) ⟨(x + ((x' - x).toNat : Nat), y, on), ?_, ?_⟩
    · obtain ⟨k, -, rfl⟩ := List.mem_map.1 hp
      rfl
    · exact List.mem_map.2 ⟨(x' - x).toNat, List.mem_range.2 (by omega), rfl⟩
    · exact ⟨by simp only; omega, hin.1⟩
  · rename_i hout
    refine getPixel_paint_ne hc _ hm h fun p hp hh => hout ?_
    obtain ⟨k, hk, rfl⟩ := List.mem_map.1 hp
    have := List.mem_range.1 hk
    simp only at hh
    omega

theorem drawVline_wf {c : Config} (hc : c.valid = true) (x y : Int) (len : Nat) (on : Bool) {m : Memory}
    (hm : m.wf c.fbSize = true) : (drawVline c x y len on m).wf c.fbSize = true := by
  rw [drawVline_eq_paint]
  exact paint_wf hc _ hm

theorem read_drawVline_ne {c : Config} (hc : c.valid = true) {x y : Int} {len : Nat} {on : Bool} {m : Memory}
    (hm : m.wf c.fbSize = true) {a : Nat}
    (h : ∀ k : Nat, k < len → inBounds c x (y + k) = true → a ≠ byteIndex c x (y + k)) :
    (drawVline c x y len on m).read a = m.read a := by
  rw [drawVline_eq_paint]
  refine read_paint_ne hc _ hm fun p hp => ?_
  obtain ⟨k, hk, rfl⟩ := List.mem_map.1 hp
  exact h k (List.mem_range.1 hk)

theorem getPixel_drawVline {c : Config} (hc : c.valid = true) {x y : Int} {len : Nat} {on : Bool} {m : Memory}
    (hm : m.wf c.fbSize = true) {x' y' : Int} (h : inBounds c x' y' = true) :
    getPixel c (drawVline c x y len on m) x' y'
      = if x' = x ∧ y ≤ y' ∧ y' < y + len then on else getPixel c m x' y' := by
  rw [drawVline_eq_paint]
  split
  · rename_i hin
    refine getPixel_paint_eq hc _ hm h (fun p hp _ => ?_) ⟨(x, y + ((y' - y).toNat : Nat), on), ?_, ?_⟩
    · obtain ⟨k, -, rfl⟩ := List.mem_map.1 hp
      rfl
    · exact List.mem_map.2 ⟨(y' - y).toNat, List.mem_range.2 (by omega), rfl⟩
    · exact ⟨hin.1, by simp only; omega⟩
  · rename_i hout
    refine getPixel_paint_ne hc _ hm h fun p hp hh => hout ?_
    obtain ⟨k, hk, rfl⟩ := List.mem_map.1 hp
    have := List.mem_range.1 hk
    simp only at hh
    omega

/-! CHAR (R87). -/

/-- Row `j` of column `i` of a cell: the glyph's bit, 0 in the spacing column (R87, R88). -/
theorem glyphColumn_getLsbD (g : Glyph) (i j : Nat) :
    (glyphColumn g i).getLsbD j = if h : i < 5 then (g[i]'h).getLsbD j else false := by
  unfold glyphColumn
  split <;> simp

theorem drawChar_wf {c : Config} (hc : c.valid = true) (x y : Int) (ch : Byte) {m : Memory}
    (hm : m.wf c.fbSize = true) : (drawChar c x y ch m).wf c.fbSize = true := by
  rw [drawChar_eq_paint]
  exact paint_wf hc _ hm

/-- A character leaves every byte that holds no pixel of its cell, and every byte when it has no glyph. -/
theorem read_drawChar_ne {c : Config} (hc : c.valid = true) {x y : Int} {ch : Byte} {m : Memory}
    (hm : m.wf c.fbSize = true) {a : Nat}
    (h : (glyphOf c ch).isSome = true → ∀ i j : Nat, i < 6 → j < 8 →
      inBounds c (x + i) (y + j) = true → a ≠ byteIndex c (x + i) (y + j)) :
    (drawChar c x y ch m).read a = m.read a := by
  rw [drawChar_eq_paint]
  refine read_paint_ne hc _ hm fun p hp => ?_
  obtain ⟨g, hg, i, j, hi, hj, rfl⟩ := mem_charPixels.1 hp
  exact h (by simp [hg]) i j hi hj

/-- The pixels of a cell are the glyph's, or blank in column 5; all other pixels stay (R92). -/
theorem getPixel_drawChar {c : Config} (hc : c.valid = true) {x y : Int} {ch : Byte} {m : Memory}
    (hm : m.wf c.fbSize = true) {x' y' : Int} (h : inBounds c x' y' = true) :
    getPixel c (drawChar c x y ch m) x' y' =
      match glyphOf c ch with
      | none => getPixel c m x' y'
      | some g =>
        if x ≤ x' ∧ x' ≤ x + 5 ∧ y ≤ y' ∧ y' ≤ y + 7
        then if h : (x' - x).toNat < 5 then (g[(x' - x).toNat]'h).getLsbD (y' - y).toNat else false
        else getPixel c m x' y' := by
  simp only [← glyphColumn_getLsbD]
  rw [drawChar_eq_paint]
  cases hg : glyphOf c ch with
  | none => simp [charPixels, hg]
  | some g =>
    simp only
    split
    · rename_i hin
      refine getPixel_paint_eq hc _ hm h (fun p hp hh => ?_)
        ⟨(x + ((x' - x).toNat : Nat), y + ((y' - y).toNat : Nat), (glyphColumn g (x' - x).toNat).getLsbD (y' - y).toNat), ?_, ?_⟩
      · obtain ⟨g', hg', i, j, hi, hj, rfl⟩ := mem_charPixels.1 hp
        rw [hg] at hg'
        cases hg'
        simp only at hh ⊢
        have h1 : (x' - x).toNat = i := by omega
        have h2 : (y' - y).toNat = j := by omega
        rw [h1, h2]
      · exact mem_charPixels.2 ⟨g, hg, _, _, by omega, by omega, rfl⟩
      · constructor <;> simp only <;> omega
    · rename_i hout
      refine getPixel_paint_ne hc _ hm h fun p hp hh => hout ?_
      obtain ⟨g', hg', i, j, hi, hj, rfl⟩ := mem_charPixels.1 hp
      simp only at hh
      omega

/-! STR (R90). -/

theorem drawText_wf {c : Config} (hc : c.valid = true) (x y : Int) (n : Nat) (text : List Byte) {m : Memory}
    (hm : m.wf c.fbSize = true) : (drawText c x y n text m).wf c.fbSize = true := by
  rw [drawText_eq_paint]
  exact paint_wf hc _ hm

/-- A text leaves every byte that holds no pixel of a cell of a character with a glyph. -/
theorem read_drawText_ne {c : Config} (hc : c.valid = true) {x y : Int} {text : List Byte} {m : Memory}
    (hm : m.wf c.fbSize = true) {a : Nat}
    (h : ∀ (s : Nat) (ch : Byte), text[s]? = some ch → (glyphOf c ch).isSome = true → ∀ i j : Nat, i < 6 → j < 8 →
      inBounds c (x + 6 * s + i) (y + j) = true → a ≠ byteIndex c (x + 6 * s + i) (y + j)) :
    (drawText c x y 0 text m).read a = m.read a := by
  rw [drawText_eq_paint]
  refine read_paint_ne hc _ hm fun p hp => ?_
  obtain ⟨s, hs, hp⟩ := mem_textPixels.1 hp
  obtain ⟨g, hg, i, j, hi, hj, rfl⟩ := mem_charPixels.1 hp
  simpa using h s text[s] (List.getElem?_eq_getElem hs) (by simp [hg]) i j hi hj

/-- The pixels of a text: character `(x' - x) / 6` decides, where it has a glyph; all other pixels stay (R90, R91). -/
theorem getPixel_drawText {c : Config} (hc : c.valid = true) {x y : Int} {text : List Byte} {m : Memory}
    (hm : m.wf c.fbSize = true) {x' y' : Int} (h : inBounds c x' y' = true) :
    getPixel c (drawText c x y 0 text m) x' y' =
      if x ≤ x' ∧ y ≤ y' ∧ y' ≤ y + 7 then
        match text[((x' - x) / 6).toNat]?.bind (glyphOf c) with
        | none => getPixel c m x' y'
        | some g =>
          if h : ((x' - x) % 6).toNat < 5 then (g[((x' - x) % 6).toNat]'h).getLsbD (y' - y).toNat else false
      else getPixel c m x' y' := by
  simp only [← glyphColumn_getLsbD]
  have key : ∀ p ∈ textPixels c x y 0 text, x' = p.1 ∧ y' = p.2.1 →
      (x ≤ x' ∧ y ≤ y' ∧ y' ≤ y + 7) ∧ ∃ g, text[((x' - x) / 6).toNat]?.bind (glyphOf c) = some g
        ∧ p.2.2 = (glyphColumn g ((x' - x) % 6).toNat).getLsbD (y' - y).toNat := by
    intro p hp hh
    obtain ⟨s, hs, hp⟩ := mem_textPixels.1 hp
    obtain ⟨g, hg, i, j, hi, hj, rfl⟩ := mem_charPixels.1 hp
    simp only [Nat.zero_add] at hh
    have h1 : ((x' - x) / 6).toNat = s := by omega
    have h2 : ((x' - x) % 6).toNat = i := by omega
    have h3 : (y' - y).toNat = j := by omega
    refine ⟨by omega, g, ?_, ?_⟩
    · rw [h1, List.getElem?_eq_getElem hs]
      exact hg
    · rw [h2, h3]
  rw [drawText_eq_paint]
  split
  · rename_i hin
    split
    · rename_i hnone
      refine getPixel_paint_ne hc _ hm h fun p hp hh => ?_
      obtain ⟨-, g, hg, -⟩ := key p hp hh
      rw [hnone] at hg
      cases hg
    · rename_i g hsome
      obtain ⟨ch, hch, hg⟩ := Option.bind_eq_some_iff.1 hsome
      obtain ⟨hs, rfl⟩ := List.getElem?_eq_some_iff.1 hch
      refine getPixel_paint_eq hc _ hm h (fun p hp hh => ?_)
        ⟨(x + 6 * ((0 + ((x' - x) / 6).toNat : Nat) : Int) + (((x' - x) % 6).toNat : Nat), y + ((y' - y).toNat : Nat),
          (glyphColumn g ((x' - x) % 6).toNat).getLsbD (y' - y).toNat), ?_, ?_⟩
      · obtain ⟨-, g', hg', hv⟩ := key p hp hh
        rw [hsome] at hg'
        cases hg'
        exact hv
      · exact mem_textPixels.2 ⟨_, hs, mem_charPixels.2 ⟨g, hg, _, _, by omega, by omega, rfl⟩⟩
      · constructor <;> simp only <;> omega
  · rename_i hout
    exact getPixel_paint_ne hc _ hm h fun p hp hh => hout (key p hp hh).1

end Sys2Proof.Machine
end

