-- ==== Sys2Proof/Laws/PerInstr.lean ====
section
/-! SUPPORT. Statements made per instruction: the first word of every command's encoding matches that command's own row of the opcode map (R55). -/

namespace Sys2Proof.Laws

/-- The row of the opcode map a command belongs to (R54). -/
def rowOf : Instr → Op
  | .clear => .clear
  | .setpx _ _ _ => .setpx
  | .getpx _ _ => .getpx
  | .hline _ _ _ _ => .hline
  | .vline _ _ _ _ => .vline
  | .char _ _ _ => .char
  | .str _ _ _ _ => .str
  | .init => .init
  | .flush => .flush
  | .status => .status

theorem argOfOn_reserved (on : Bool) : Machine.argOfOn on &&& 0xFE#8 = 0#8 := by cases on <;> decide

theorem count_reserved (n : Byte) : n.setWidth 16 &&& 0xFF00#16 = 0#16 := by
  ext i hi
  rcases Nat.lt_or_ge i 8 with h | h
  · interval_cases i <;> simp
  · simp [BitVec.getLsbD_of_ge n i h]

namespace Row

/-- The first word of `i`'s encoding matches `i`'s row, and no other. -/
def Statement (i : Instr) : Prop := ((encode i).head?.bind classify) = some (rowOf i)

theorem clear : Statement .clear := by
  simp [Statement, encode, rowOf, classify_eq_some, Op.code, Op.fieldsOk]

theorem setpx (x y : Half) (on : Bool) : Statement (.setpx x y on) := by
  simp [Statement, encode, rowOf, classify_eq_some, Op.code, Op.fieldsOk, argOfOn_reserved]

theorem getpx (x y : Half) : Statement (.getpx x y) := by
  simp [Statement, encode, rowOf, classify_eq_some, Op.code, Op.fieldsOk]

theorem hline (x y len : Half) (on : Bool) : Statement (.hline x y len on) := by
  simp [Statement, encode, rowOf, classify_eq_some, Op.code, Op.fieldsOk, argOfOn_reserved]

theorem vline (x y len : Half) (on : Bool) : Statement (.vline x y len on) := by
  simp [Statement, encode, rowOf, classify_eq_some, Op.code, Op.fieldsOk, argOfOn_reserved]

theorem char (x y : Half) (ch : Byte) : Statement (.char x y ch) := by
  simp [Statement, encode, rowOf, classify_eq_some, Op.code, Op.fieldsOk]

theorem str (x y : Half) (n : Byte) (payload : List Word64) : Statement (.str x y n payload) := by
  simp [Statement, encode, rowOf, classify_eq_some, Op.code, Op.fieldsOk, count_reserved]

theorem init : Statement .init := by
  simp [Statement, encode, rowOf, classify_eq_some, Op.code, Op.fieldsOk]

theorem flush : Statement .flush := by
  simp [Statement, encode, rowOf, classify_eq_some, Op.code, Op.fieldsOk]

theorem status : Statement .status := by
  simp [Statement, encode, rowOf, classify_eq_some, Op.code, Op.fieldsOk]

end Row

end Sys2Proof.Laws
end

