-- ==== Sys2Proof/Laws/State.lean ====
section
/-! SUPPORT. What each field of State is after each named update: one lemma per field per update. -/

namespace Sys2Proof.Machine

/-! `setActive`: DCS <- ACTIVE (R100). -/

@[simp] theorem State.setActive_cfg (s : State) : (s.setActive).cfg = s.cfg := rfl
@[simp] theorem State.setActive_fb (s : State) : (s.setActive).fb = s.fb := rfl
@[simp] theorem State.setActive_dcs (s : State) : (s.setActive).dcs = .active := rfl
@[simp] theorem State.setActive_busErr (s : State) : (s.setActive).busErr = s.busErr := rfl
@[simp] theorem State.setActive_ill (s : State) : (s.setActive).ill = s.ill := rfl
@[simp] theorem State.setActive_x (s : State) : (s.setActive).x = s.x := rfl
@[simp] theorem State.setActive_y (s : State) : (s.setActive).y = s.y := rfl
@[simp] theorem State.setActive_len (s : State) : (s.setActive).len = s.len := rfl
@[simp] theorem State.setActive_arg (s : State) : (s.setActive).arg = s.arg := rfl
@[simp] theorem State.setActive_ctr (s : State) : (s.setActive).ctr = s.ctr := rfl
@[simp] theorem State.setActive_txt (s : State) : (s.setActive).txt = s.txt := rfl
@[simp] theorem State.setActive_pending (s : State) : (s.setActive).pending = s.pending := rfl
@[simp] theorem State.setActive_outstanding (s : State) : (s.setActive).outstanding = s.outstanding := rfl
@[simp] theorem State.setActive_rstPin (s : State) : (s.setActive).rstPin = s.rstPin := rfl
@[simp] theorem State.setActive_rstInCmd (s : State) : (s.setActive).rstInCmd = s.rstInCmd := rfl
@[simp] theorem State.setActive_cmdIn (s : State) : (s.setActive).cmdIn = s.cmdIn := rfl
@[simp] theorem State.setActive_rsp (s : State) : (s.setActive).rsp = s.rsp := rfl
@[simp] theorem State.setActive_rspReady (s : State) : (s.setActive).rspReady = s.rspReady := rfl
@[simp] theorem State.setActive_rspOut (s : State) : (s.setActive).rspOut = s.rspOut := rfl
@[simp] theorem State.setActive_txOut (s : State) : (s.setActive).txOut = s.txOut := rfl
@[simp] theorem State.setActive_trIn (s : State) : (s.setActive).trIn = s.trIn := rfl
@[simp] theorem State.setActive_trDraw (s : State) : (s.setActive).trDraw = s.trDraw := rfl
@[simp] theorem State.setActive_ctrDraw (s : State) : (s.setActive).ctrDraw = s.ctrDraw := rfl
@[simp] theorem State.setActive_resets (s : State) : (s.setActive).resets = s.resets := rfl

/-! `setIll`: ILL <- 1 (R115). -/

@[simp] theorem State.setIll_cfg (s : State) : (s.setIll).cfg = s.cfg := rfl
@[simp] theorem State.setIll_fb (s : State) : (s.setIll).fb = s.fb := rfl
@[simp] theorem State.setIll_dcs (s : State) : (s.setIll).dcs = s.dcs := rfl
@[simp] theorem State.setIll_busErr (s : State) : (s.setIll).busErr = s.busErr := rfl
@[simp] theorem State.setIll_ill (s : State) : (s.setIll).ill = true := rfl
@[simp] theorem State.setIll_x (s : State) : (s.setIll).x = s.x := rfl
@[simp] theorem State.setIll_y (s : State) : (s.setIll).y = s.y := rfl
@[simp] theorem State.setIll_len (s : State) : (s.setIll).len = s.len := rfl
@[simp] theorem State.setIll_arg (s : State) : (s.setIll).arg = s.arg := rfl
@[simp] theorem State.setIll_ctr (s : State) : (s.setIll).ctr = s.ctr := rfl
@[simp] theorem State.setIll_txt (s : State) : (s.setIll).txt = s.txt := rfl
@[simp] theorem State.setIll_pending (s : State) : (s.setIll).pending = s.pending := rfl
@[simp] theorem State.setIll_outstanding (s : State) : (s.setIll).outstanding = s.outstanding := rfl
@[simp] theorem State.setIll_rstPin (s : State) : (s.setIll).rstPin = s.rstPin := rfl
@[simp] theorem State.setIll_rstInCmd (s : State) : (s.setIll).rstInCmd = s.rstInCmd := rfl
@[simp] theorem State.setIll_cmdIn (s : State) : (s.setIll).cmdIn = s.cmdIn := rfl
@[simp] theorem State.setIll_rsp (s : State) : (s.setIll).rsp = s.rsp := rfl
@[simp] theorem State.setIll_rspReady (s : State) : (s.setIll).rspReady = s.rspReady := rfl
@[simp] theorem State.setIll_rspOut (s : State) : (s.setIll).rspOut = s.rspOut := rfl
@[simp] theorem State.setIll_txOut (s : State) : (s.setIll).txOut = s.txOut := rfl
@[simp] theorem State.setIll_trIn (s : State) : (s.setIll).trIn = s.trIn := rfl
@[simp] theorem State.setIll_trDraw (s : State) : (s.setIll).trDraw = s.trDraw := rfl
@[simp] theorem State.setIll_ctrDraw (s : State) : (s.setIll).ctrDraw = s.ctrDraw := rfl
@[simp] theorem State.setIll_resets (s : State) : (s.setIll).resets = s.resets := rfl

/-! `noteFailures`: BUSERR set on failures (R22). -/

@[simp] theorem State.noteFailures_cfg (s : State) : (s.noteFailures).cfg = s.cfg := rfl
@[simp] theorem State.noteFailures_fb (s : State) : (s.noteFailures).fb = s.fb := rfl
@[simp] theorem State.noteFailures_dcs (s : State) : (s.noteFailures).dcs = s.dcs := rfl
@[simp] theorem State.noteFailures_busErr (s : State) : (s.noteFailures).busErr = (s.busErr || s.ctr.f != 0) := rfl
@[simp] theorem State.noteFailures_ill (s : State) : (s.noteFailures).ill = s.ill := rfl
@[simp] theorem State.noteFailures_x (s : State) : (s.noteFailures).x = s.x := rfl
@[simp] theorem State.noteFailures_y (s : State) : (s.noteFailures).y = s.y := rfl
@[simp] theorem State.noteFailures_len (s : State) : (s.noteFailures).len = s.len := rfl
@[simp] theorem State.noteFailures_arg (s : State) : (s.noteFailures).arg = s.arg := rfl
@[simp] theorem State.noteFailures_ctr (s : State) : (s.noteFailures).ctr = s.ctr := rfl
@[simp] theorem State.noteFailures_txt (s : State) : (s.noteFailures).txt = s.txt := rfl
@[simp] theorem State.noteFailures_pending (s : State) : (s.noteFailures).pending = s.pending := rfl
@[simp] theorem State.noteFailures_outstanding (s : State) : (s.noteFailures).outstanding = s.outstanding := rfl
@[simp] theorem State.noteFailures_rstPin (s : State) : (s.noteFailures).rstPin = s.rstPin := rfl
@[simp] theorem State.noteFailures_rstInCmd (s : State) : (s.noteFailures).rstInCmd = s.rstInCmd := rfl
@[simp] theorem State.noteFailures_cmdIn (s : State) : (s.noteFailures).cmdIn = s.cmdIn := rfl
@[simp] theorem State.noteFailures_rsp (s : State) : (s.noteFailures).rsp = s.rsp := rfl
@[simp] theorem State.noteFailures_rspReady (s : State) : (s.noteFailures).rspReady = s.rspReady := rfl
@[simp] theorem State.noteFailures_rspOut (s : State) : (s.noteFailures).rspOut = s.rspOut := rfl
@[simp] theorem State.noteFailures_txOut (s : State) : (s.noteFailures).txOut = s.txOut := rfl
@[simp] theorem State.noteFailures_trIn (s : State) : (s.noteFailures).trIn = s.trIn := rfl
@[simp] theorem State.noteFailures_trDraw (s : State) : (s.noteFailures).trDraw = s.trDraw := rfl
@[simp] theorem State.noteFailures_ctrDraw (s : State) : (s.noteFailures).ctrDraw = s.ctrDraw := rfl
@[simp] theorem State.noteFailures_resets (s : State) : (s.noteFailures).resets = s.resets := rfl

/-! `loadOperands`: operands loaded (R53). -/

@[simp] theorem State.loadOperands_cfg (s : State) (vx vy vl : Half) (va : Byte) : (s.loadOperands vx vy vl va).cfg = s.cfg := rfl
@[simp] theorem State.loadOperands_fb (s : State) (vx vy vl : Half) (va : Byte) : (s.loadOperands vx vy vl va).fb = s.fb := rfl
@[simp] theorem State.loadOperands_dcs (s : State) (vx vy vl : Half) (va : Byte) : (s.loadOperands vx vy vl va).dcs = s.dcs := rfl
@[simp] theorem State.loadOperands_busErr (s : State) (vx vy vl : Half) (va : Byte) : (s.loadOperands vx vy vl va).busErr = s.busErr := rfl
@[simp] theorem State.loadOperands_ill (s : State) (vx vy vl : Half) (va : Byte) : (s.loadOperands vx vy vl va).ill = s.ill := rfl
@[simp] theorem State.loadOperands_x (s : State) (vx vy vl : Half) (va : Byte) : (s.loadOperands vx vy vl va).x = vx := rfl
@[simp] theorem State.loadOperands_y (s : State) (vx vy vl : Half) (va : Byte) : (s.loadOperands vx vy vl va).y = vy := rfl
@[simp] theorem State.loadOperands_len (s : State) (vx vy vl : Half) (va : Byte) : (s.loadOperands vx vy vl va).len = vl := rfl
@[simp] theorem State.loadOperands_arg (s : State) (vx vy vl : Half) (va : Byte) : (s.loadOperands vx vy vl va).arg = va := rfl
@[simp] theorem State.loadOperands_ctr (s : State) (vx vy vl : Half) (va : Byte) : (s.loadOperands vx vy vl va).ctr = s.ctr := rfl
@[simp] theorem State.loadOperands_txt (s : State) (vx vy vl : Half) (va : Byte) : (s.loadOperands vx vy vl va).txt = s.txt := rfl
@[simp] theorem State.loadOperands_pending (s : State) (vx vy vl : Half) (va : Byte) : (s.loadOperands vx vy vl va).pending = s.pending := rfl
@[simp] theorem State.loadOperands_outstanding (s : State) (vx vy vl : Half) (va : Byte) : (s.loadOperands vx vy vl va).outstanding = s.outstanding := rfl
@[simp] theorem State.loadOperands_rstPin (s : State) (vx vy vl : Half) (va : Byte) : (s.loadOperands vx vy vl va).rstPin = s.rstPin := rfl
@[simp] theorem State.loadOperands_rstInCmd (s : State) (vx vy vl : Half) (va : Byte) : (s.loadOperands vx vy vl va).rstInCmd = s.rstInCmd := rfl
@[simp] theorem State.loadOperands_cmdIn (s : State) (vx vy vl : Half) (va : Byte) : (s.loadOperands vx vy vl va).cmdIn = s.cmdIn := rfl
@[simp] theorem State.loadOperands_rsp (s : State) (vx vy vl : Half) (va : Byte) : (s.loadOperands vx vy vl va).rsp = s.rsp := rfl
@[simp] theorem State.loadOperands_rspReady (s : State) (vx vy vl : Half) (va : Byte) : (s.loadOperands vx vy vl va).rspReady = s.rspReady := rfl
@[simp] theorem State.loadOperands_rspOut (s : State) (vx vy vl : Half) (va : Byte) : (s.loadOperands vx vy vl va).rspOut = s.rspOut := rfl
@[simp] theorem State.loadOperands_txOut (s : State) (vx vy vl : Half) (va : Byte) : (s.loadOperands vx vy vl va).txOut = s.txOut := rfl
@[simp] theorem State.loadOperands_trIn (s : State) (vx vy vl : Half) (va : Byte) : (s.loadOperands vx vy vl va).trIn = s.trIn := rfl
@[simp] theorem State.loadOperands_trDraw (s : State) (vx vy vl : Half) (va : Byte) : (s.loadOperands vx vy vl va).trDraw = s.trDraw := rfl
@[simp] theorem State.loadOperands_ctrDraw (s : State) (vx vy vl : Half) (va : Byte) : (s.loadOperands vx vy vl va).ctrDraw = s.ctrDraw := rfl
@[simp] theorem State.loadOperands_resets (s : State) (vx vy vl : Half) (va : Byte) : (s.loadOperands vx vy vl va).resets = s.resets := rfl

/-! `respond`: one response (R62). -/

@[simp] theorem State.respond_cfg (s : State) (code : RspCode) (data : BitVec 16) : (s.respond code data).cfg = s.cfg := rfl
@[simp] theorem State.respond_fb (s : State) (code : RspCode) (data : BitVec 16) : (s.respond code data).fb = s.fb := rfl
@[simp] theorem State.respond_dcs (s : State) (code : RspCode) (data : BitVec 16) : (s.respond code data).dcs = s.dcs := rfl
@[simp] theorem State.respond_busErr (s : State) (code : RspCode) (data : BitVec 16) : (s.respond code data).busErr = s.busErr := rfl
@[simp] theorem State.respond_ill (s : State) (code : RspCode) (data : BitVec 16) : (s.respond code data).ill = s.ill := rfl
@[simp] theorem State.respond_x (s : State) (code : RspCode) (data : BitVec 16) : (s.respond code data).x = s.x := rfl
@[simp] theorem State.respond_y (s : State) (code : RspCode) (data : BitVec 16) : (s.respond code data).y = s.y := rfl
@[simp] theorem State.respond_len (s : State) (code : RspCode) (data : BitVec 16) : (s.respond code data).len = s.len := rfl
@[simp] theorem State.respond_arg (s : State) (code : RspCode) (data : BitVec 16) : (s.respond code data).arg = s.arg := rfl
@[simp] theorem State.respond_ctr (s : State) (code : RspCode) (data : BitVec 16) : (s.respond code data).ctr = s.ctr := rfl
@[simp] theorem State.respond_txt (s : State) (code : RspCode) (data : BitVec 16) : (s.respond code data).txt = s.txt := rfl
@[simp] theorem State.respond_pending (s : State) (code : RspCode) (data : BitVec 16) : (s.respond code data).pending = s.pending := rfl
@[simp] theorem State.respond_outstanding (s : State) (code : RspCode) (data : BitVec 16) : (s.respond code data).outstanding = s.outstanding := rfl
@[simp] theorem State.respond_rstPin (s : State) (code : RspCode) (data : BitVec 16) : (s.respond code data).rstPin = s.rstPin := rfl
@[simp] theorem State.respond_rstInCmd (s : State) (code : RspCode) (data : BitVec 16) : (s.respond code data).rstInCmd = s.rstInCmd := rfl
@[simp] theorem State.respond_cmdIn (s : State) (code : RspCode) (data : BitVec 16) : (s.respond code data).cmdIn = s.cmdIn := rfl
@[simp] theorem State.respond_rsp (s : State) (code : RspCode) (data : BitVec 16) : (s.respond code data).rsp = some (responseWord code data) := rfl
@[simp] theorem State.respond_rspReady (s : State) (code : RspCode) (data : BitVec 16) : (s.respond code data).rspReady = s.rspReady := rfl
@[simp] theorem State.respond_rspOut (s : State) (code : RspCode) (data : BitVec 16) : (s.respond code data).rspOut = s.rspOut := rfl
@[simp] theorem State.respond_txOut (s : State) (code : RspCode) (data : BitVec 16) : (s.respond code data).txOut = s.txOut := rfl
@[simp] theorem State.respond_trIn (s : State) (code : RspCode) (data : BitVec 16) : (s.respond code data).trIn = s.trIn := rfl
@[simp] theorem State.respond_trDraw (s : State) (code : RspCode) (data : BitVec 16) : (s.respond code data).trDraw = s.trDraw := rfl
@[simp] theorem State.respond_ctrDraw (s : State) (code : RspCode) (data : BitVec 16) : (s.respond code data).ctrDraw = s.ctrDraw := rfl
@[simp] theorem State.respond_resets (s : State) (code : RspCode) (data : BitVec 16) : (s.respond code data).resets = s.resets := rfl

/-! `raiseIllegal`: raise Illegal (R115). -/

@[simp] theorem State.raiseIllegal_cfg (s : State) : (s.raiseIllegal).cfg = s.cfg := rfl
@[simp] theorem State.raiseIllegal_fb (s : State) : (s.raiseIllegal).fb = s.fb := rfl
@[simp] theorem State.raiseIllegal_dcs (s : State) : (s.raiseIllegal).dcs = s.dcs := rfl
@[simp] theorem State.raiseIllegal_busErr (s : State) : (s.raiseIllegal).busErr = s.busErr := rfl
@[simp] theorem State.raiseIllegal_ill (s : State) : (s.raiseIllegal).ill = true := rfl
@[simp] theorem State.raiseIllegal_x (s : State) : (s.raiseIllegal).x = s.x := rfl
@[simp] theorem State.raiseIllegal_y (s : State) : (s.raiseIllegal).y = s.y := rfl
@[simp] theorem State.raiseIllegal_len (s : State) : (s.raiseIllegal).len = s.len := rfl
@[simp] theorem State.raiseIllegal_arg (s : State) : (s.raiseIllegal).arg = s.arg := rfl
@[simp] theorem State.raiseIllegal_ctr (s : State) : (s.raiseIllegal).ctr = s.ctr := rfl
@[simp] theorem State.raiseIllegal_txt (s : State) : (s.raiseIllegal).txt = s.txt := rfl
@[simp] theorem State.raiseIllegal_pending (s : State) : (s.raiseIllegal).pending = s.pending := rfl
@[simp] theorem State.raiseIllegal_outstanding (s : State) : (s.raiseIllegal).outstanding = s.outstanding := rfl
@[simp] theorem State.raiseIllegal_rstPin (s : State) : (s.raiseIllegal).rstPin = s.rstPin := rfl
@[simp] theorem State.raiseIllegal_rstInCmd (s : State) : (s.raiseIllegal).rstInCmd = s.rstInCmd := rfl
@[simp] theorem State.raiseIllegal_cmdIn (s : State) : (s.raiseIllegal).cmdIn = s.cmdIn := rfl
@[simp] theorem State.raiseIllegal_rsp (s : State) : (s.raiseIllegal).rsp = some (responseWord .illegal 0#16) := rfl
@[simp] theorem State.raiseIllegal_rspReady (s : State) : (s.raiseIllegal).rspReady = s.rspReady := rfl
@[simp] theorem State.raiseIllegal_rspOut (s : State) : (s.raiseIllegal).rspOut = s.rspOut := rfl
@[simp] theorem State.raiseIllegal_txOut (s : State) : (s.raiseIllegal).txOut = s.txOut := rfl
@[simp] theorem State.raiseIllegal_trIn (s : State) : (s.raiseIllegal).trIn = s.trIn := rfl
@[simp] theorem State.raiseIllegal_trDraw (s : State) : (s.raiseIllegal).trDraw = s.trDraw := rfl
@[simp] theorem State.raiseIllegal_ctrDraw (s : State) : (s.raiseIllegal).ctrDraw = s.ctrDraw := rfl
@[simp] theorem State.raiseIllegal_resets (s : State) : (s.raiseIllegal).resets = s.resets := rfl

/-! `takeResponse`: the response taken (R70). -/

@[simp] theorem State.takeResponse_cfg (s : State) : (s.takeResponse).cfg = s.cfg := rfl
@[simp] theorem State.takeResponse_fb (s : State) : (s.takeResponse).fb = s.fb := rfl
@[simp] theorem State.takeResponse_dcs (s : State) : (s.takeResponse).dcs = s.dcs := rfl
@[simp] theorem State.takeResponse_busErr (s : State) : (s.takeResponse).busErr = s.busErr := rfl
@[simp] theorem State.takeResponse_ill (s : State) : (s.takeResponse).ill = s.ill := rfl
@[simp] theorem State.takeResponse_x (s : State) : (s.takeResponse).x = s.x := rfl
@[simp] theorem State.takeResponse_y (s : State) : (s.takeResponse).y = s.y := rfl
@[simp] theorem State.takeResponse_len (s : State) : (s.takeResponse).len = s.len := rfl
@[simp] theorem State.takeResponse_arg (s : State) : (s.takeResponse).arg = s.arg := rfl
@[simp] theorem State.takeResponse_ctr (s : State) : (s.takeResponse).ctr = s.ctr := rfl
@[simp] theorem State.takeResponse_txt (s : State) : (s.takeResponse).txt = s.txt := rfl
@[simp] theorem State.takeResponse_pending (s : State) : (s.takeResponse).pending = s.pending := rfl
@[simp] theorem State.takeResponse_outstanding (s : State) : (s.takeResponse).outstanding = s.outstanding := rfl
@[simp] theorem State.takeResponse_rstPin (s : State) : (s.takeResponse).rstPin = s.rstPin := rfl
@[simp] theorem State.takeResponse_rstInCmd (s : State) : (s.takeResponse).rstInCmd = s.rstInCmd := rfl
@[simp] theorem State.takeResponse_cmdIn (s : State) : (s.takeResponse).cmdIn = s.cmdIn := rfl
@[simp] theorem State.takeResponse_rsp (s : State) : (s.takeResponse).rsp = none := rfl
@[simp] theorem State.takeResponse_rspReady (s : State) : (s.takeResponse).rspReady = s.rspReady := rfl
@[simp] theorem State.takeResponse_rspOut (s : State) : (s.takeResponse).rspOut = s.rspOut ++ s.rsp.toList := rfl
@[simp] theorem State.takeResponse_txOut (s : State) : (s.takeResponse).txOut = s.txOut := rfl
@[simp] theorem State.takeResponse_trIn (s : State) : (s.takeResponse).trIn = s.trIn := rfl
@[simp] theorem State.takeResponse_trDraw (s : State) : (s.takeResponse).trDraw = s.trDraw := rfl
@[simp] theorem State.takeResponse_ctrDraw (s : State) : (s.takeResponse).ctrDraw = s.ctrDraw := rfl
@[simp] theorem State.takeResponse_resets (s : State) : (s.takeResponse).resets = s.resets := rfl

/-! `leaveK`: K left free (U9). -/

@[simp] theorem State.leaveK_cfg (s : State) : (s.leaveK).cfg = s.cfg := rfl
@[simp] theorem State.leaveK_fb (s : State) : (s.leaveK).fb = s.fb := rfl
@[simp] theorem State.leaveK_dcs (s : State) : (s.leaveK).dcs = s.dcs := rfl
@[simp] theorem State.leaveK_busErr (s : State) : (s.leaveK).busErr = s.busErr := rfl
@[simp] theorem State.leaveK_ill (s : State) : (s.leaveK).ill = s.ill := rfl
@[simp] theorem State.leaveK_x (s : State) : (s.leaveK).x = s.x := rfl
@[simp] theorem State.leaveK_y (s : State) : (s.leaveK).y = s.y := rfl
@[simp] theorem State.leaveK_len (s : State) : (s.leaveK).len = s.len := rfl
@[simp] theorem State.leaveK_arg (s : State) : (s.leaveK).arg = s.arg := rfl
@[simp] theorem State.leaveK_ctr (s : State) : (s.leaveK).ctr = { s.ctr with k := s.freeCounter 0 65536 } := rfl
@[simp] theorem State.leaveK_txt (s : State) : (s.leaveK).txt = s.txt := rfl
@[simp] theorem State.leaveK_pending (s : State) : (s.leaveK).pending = s.pending := rfl
@[simp] theorem State.leaveK_outstanding (s : State) : (s.leaveK).outstanding = s.outstanding := rfl
@[simp] theorem State.leaveK_rstPin (s : State) : (s.leaveK).rstPin = s.rstPin := rfl
@[simp] theorem State.leaveK_rstInCmd (s : State) : (s.leaveK).rstInCmd = s.rstInCmd := rfl
@[simp] theorem State.leaveK_cmdIn (s : State) : (s.leaveK).cmdIn = s.cmdIn := rfl
@[simp] theorem State.leaveK_rsp (s : State) : (s.leaveK).rsp = s.rsp := rfl
@[simp] theorem State.leaveK_rspReady (s : State) : (s.leaveK).rspReady = s.rspReady := rfl
@[simp] theorem State.leaveK_rspOut (s : State) : (s.leaveK).rspOut = s.rspOut := rfl
@[simp] theorem State.leaveK_txOut (s : State) : (s.leaveK).txOut = s.txOut := rfl
@[simp] theorem State.leaveK_trIn (s : State) : (s.leaveK).trIn = s.trIn := rfl
@[simp] theorem State.leaveK_trDraw (s : State) : (s.leaveK).trDraw = s.trDraw := rfl
@[simp] theorem State.leaveK_ctrDraw (s : State) : (s.leaveK).ctrDraw = s.ctrDraw + 1 := rfl
@[simp] theorem State.leaveK_resets (s : State) : (s.leaveK).resets = s.resets := rfl

/-! `leaveIJ`: I and J left free (U9). -/

@[simp] theorem State.leaveIJ_cfg (s : State) : (s.leaveIJ).cfg = s.cfg := rfl
@[simp] theorem State.leaveIJ_fb (s : State) : (s.leaveIJ).fb = s.fb := rfl
@[simp] theorem State.leaveIJ_dcs (s : State) : (s.leaveIJ).dcs = s.dcs := rfl
@[simp] theorem State.leaveIJ_busErr (s : State) : (s.leaveIJ).busErr = s.busErr := rfl
@[simp] theorem State.leaveIJ_ill (s : State) : (s.leaveIJ).ill = s.ill := rfl
@[simp] theorem State.leaveIJ_x (s : State) : (s.leaveIJ).x = s.x := rfl
@[simp] theorem State.leaveIJ_y (s : State) : (s.leaveIJ).y = s.y := rfl
@[simp] theorem State.leaveIJ_len (s : State) : (s.leaveIJ).len = s.len := rfl
@[simp] theorem State.leaveIJ_arg (s : State) : (s.leaveIJ).arg = s.arg := rfl
@[simp] theorem State.leaveIJ_ctr (s : State) : (s.leaveIJ).ctr = { s.ctr with i := s.freeCounter 2 6, j := s.freeCounter 3 8 } := rfl
@[simp] theorem State.leaveIJ_txt (s : State) : (s.leaveIJ).txt = s.txt := rfl
@[simp] theorem State.leaveIJ_pending (s : State) : (s.leaveIJ).pending = s.pending := rfl
@[simp] theorem State.leaveIJ_outstanding (s : State) : (s.leaveIJ).outstanding = s.outstanding := rfl
@[simp] theorem State.leaveIJ_rstPin (s : State) : (s.leaveIJ).rstPin = s.rstPin := rfl
@[simp] theorem State.leaveIJ_rstInCmd (s : State) : (s.leaveIJ).rstInCmd = s.rstInCmd := rfl
@[simp] theorem State.leaveIJ_cmdIn (s : State) : (s.leaveIJ).cmdIn = s.cmdIn := rfl
@[simp] theorem State.leaveIJ_rsp (s : State) : (s.leaveIJ).rsp = s.rsp := rfl
@[simp] theorem State.leaveIJ_rspReady (s : State) : (s.leaveIJ).rspReady = s.rspReady := rfl
@[simp] theorem State.leaveIJ_rspOut (s : State) : (s.leaveIJ).rspOut = s.rspOut := rfl
@[simp] theorem State.leaveIJ_txOut (s : State) : (s.leaveIJ).txOut = s.txOut := rfl
@[simp] theorem State.leaveIJ_trIn (s : State) : (s.leaveIJ).trIn = s.trIn := rfl
@[simp] theorem State.leaveIJ_trDraw (s : State) : (s.leaveIJ).trDraw = s.trDraw := rfl
@[simp] theorem State.leaveIJ_ctrDraw (s : State) : (s.leaveIJ).ctrDraw = s.ctrDraw + 1 := rfl
@[simp] theorem State.leaveIJ_resets (s : State) : (s.leaveIJ).resets = s.resets := rfl

/-! `leaveSIJ`: S, I and J left free (U9). -/

@[simp] theorem State.leaveSIJ_cfg (s : State) : (s.leaveSIJ).cfg = s.cfg := rfl
@[simp] theorem State.leaveSIJ_fb (s : State) : (s.leaveSIJ).fb = s.fb := rfl
@[simp] theorem State.leaveSIJ_dcs (s : State) : (s.leaveSIJ).dcs = s.dcs := rfl
@[simp] theorem State.leaveSIJ_busErr (s : State) : (s.leaveSIJ).busErr = s.busErr := rfl
@[simp] theorem State.leaveSIJ_ill (s : State) : (s.leaveSIJ).ill = s.ill := rfl
@[simp] theorem State.leaveSIJ_x (s : State) : (s.leaveSIJ).x = s.x := rfl
@[simp] theorem State.leaveSIJ_y (s : State) : (s.leaveSIJ).y = s.y := rfl
@[simp] theorem State.leaveSIJ_len (s : State) : (s.leaveSIJ).len = s.len := rfl
@[simp] theorem State.leaveSIJ_arg (s : State) : (s.leaveSIJ).arg = s.arg := rfl
@[simp] theorem State.leaveSIJ_ctr (s : State) : (s.leaveSIJ).ctr = { s.ctr with s := s.freeCounter 1 256, i := s.freeCounter 2 6, j := s.freeCounter 3 8 } := rfl
@[simp] theorem State.leaveSIJ_txt (s : State) : (s.leaveSIJ).txt = s.txt := rfl
@[simp] theorem State.leaveSIJ_pending (s : State) : (s.leaveSIJ).pending = s.pending := rfl
@[simp] theorem State.leaveSIJ_outstanding (s : State) : (s.leaveSIJ).outstanding = s.outstanding := rfl
@[simp] theorem State.leaveSIJ_rstPin (s : State) : (s.leaveSIJ).rstPin = s.rstPin := rfl
@[simp] theorem State.leaveSIJ_rstInCmd (s : State) : (s.leaveSIJ).rstInCmd = s.rstInCmd := rfl
@[simp] theorem State.leaveSIJ_cmdIn (s : State) : (s.leaveSIJ).cmdIn = s.cmdIn := rfl
@[simp] theorem State.leaveSIJ_rsp (s : State) : (s.leaveSIJ).rsp = s.rsp := rfl
@[simp] theorem State.leaveSIJ_rspReady (s : State) : (s.leaveSIJ).rspReady = s.rspReady := rfl
@[simp] theorem State.leaveSIJ_rspOut (s : State) : (s.leaveSIJ).rspOut = s.rspOut := rfl
@[simp] theorem State.leaveSIJ_txOut (s : State) : (s.leaveSIJ).txOut = s.txOut := rfl
@[simp] theorem State.leaveSIJ_trIn (s : State) : (s.leaveSIJ).trIn = s.trIn := rfl
@[simp] theorem State.leaveSIJ_trDraw (s : State) : (s.leaveSIJ).trDraw = s.trDraw := rfl
@[simp] theorem State.leaveSIJ_ctrDraw (s : State) : (s.leaveSIJ).ctrDraw = s.ctrDraw + 1 := rfl
@[simp] theorem State.leaveSIJ_resets (s : State) : (s.leaveSIJ).resets = s.resets := rfl

/-! `leavePC`: P and C left free (U9). -/

@[simp] theorem State.leavePC_cfg (s : State) : (s.leavePC).cfg = s.cfg := rfl
@[simp] theorem State.leavePC_fb (s : State) : (s.leavePC).fb = s.fb := rfl
@[simp] theorem State.leavePC_dcs (s : State) : (s.leavePC).dcs = s.dcs := rfl
@[simp] theorem State.leavePC_busErr (s : State) : (s.leavePC).busErr = s.busErr := rfl
@[simp] theorem State.leavePC_ill (s : State) : (s.leavePC).ill = s.ill := rfl
@[simp] theorem State.leavePC_x (s : State) : (s.leavePC).x = s.x := rfl
@[simp] theorem State.leavePC_y (s : State) : (s.leavePC).y = s.y := rfl
@[simp] theorem State.leavePC_len (s : State) : (s.leavePC).len = s.len := rfl
@[simp] theorem State.leavePC_arg (s : State) : (s.leavePC).arg = s.arg := rfl
@[simp] theorem State.leavePC_ctr (s : State) : (s.leavePC).ctr = { s.ctr with p := s.freeCounter 4 s.cfg.pages, c := s.freeCounter 5 s.cfg.width } := rfl
@[simp] theorem State.leavePC_txt (s : State) : (s.leavePC).txt = s.txt := rfl
@[simp] theorem State.leavePC_pending (s : State) : (s.leavePC).pending = s.pending := rfl
@[simp] theorem State.leavePC_outstanding (s : State) : (s.leavePC).outstanding = s.outstanding := rfl
@[simp] theorem State.leavePC_rstPin (s : State) : (s.leavePC).rstPin = s.rstPin := rfl
@[simp] theorem State.leavePC_rstInCmd (s : State) : (s.leavePC).rstInCmd = s.rstInCmd := rfl
@[simp] theorem State.leavePC_cmdIn (s : State) : (s.leavePC).cmdIn = s.cmdIn := rfl
@[simp] theorem State.leavePC_rsp (s : State) : (s.leavePC).rsp = s.rsp := rfl
@[simp] theorem State.leavePC_rspReady (s : State) : (s.leavePC).rspReady = s.rspReady := rfl
@[simp] theorem State.leavePC_rspOut (s : State) : (s.leavePC).rspOut = s.rspOut := rfl
@[simp] theorem State.leavePC_txOut (s : State) : (s.leavePC).txOut = s.txOut := rfl
@[simp] theorem State.leavePC_trIn (s : State) : (s.leavePC).trIn = s.trIn := rfl
@[simp] theorem State.leavePC_trDraw (s : State) : (s.leavePC).trDraw = s.trDraw := rfl
@[simp] theorem State.leavePC_ctrDraw (s : State) : (s.leavePC).ctrDraw = s.ctrDraw + 1 := rfl
@[simp] theorem State.leavePC_resets (s : State) : (s.leavePC).resets = s.resets := rfl

/-! `applyReset`: reset (R31, R127). -/

@[simp] theorem State.applyReset_cfg (s : State) : (s.applyReset).cfg = s.cfg := rfl
@[simp] theorem State.applyReset_fb (s : State) : (s.applyReset).fb = resetFb s.cfg (s.resets + 1) := rfl
@[simp] theorem State.applyReset_dcs (s : State) : (s.applyReset).dcs = .uninit := rfl
@[simp] theorem State.applyReset_busErr (s : State) : (s.applyReset).busErr = false := rfl
@[simp] theorem State.applyReset_ill (s : State) : (s.applyReset).ill = false := rfl
@[simp] theorem State.applyReset_x (s : State) : (s.applyReset).x = 0#16 := rfl
@[simp] theorem State.applyReset_y (s : State) : (s.applyReset).y = 0#16 := rfl
@[simp] theorem State.applyReset_len (s : State) : (s.applyReset).len = 0#16 := rfl
@[simp] theorem State.applyReset_arg (s : State) : (s.applyReset).arg = 0#8 := rfl
@[simp] theorem State.applyReset_ctr (s : State) : (s.applyReset).ctr = Counters.reset := rfl
@[simp] theorem State.applyReset_txt (s : State) : (s.applyReset).txt = resetTxt := rfl
@[simp] theorem State.applyReset_pending (s : State) : (s.applyReset).pending = [] := rfl
@[simp] theorem State.applyReset_outstanding (s : State) : (s.applyReset).outstanding = none := rfl
@[simp] theorem State.applyReset_rstPin (s : State) : (s.applyReset).rstPin = false := rfl
@[simp] theorem State.applyReset_rstInCmd (s : State) : (s.applyReset).rstInCmd = s.rstInCmd := rfl
@[simp] theorem State.applyReset_cmdIn (s : State) : (s.applyReset).cmdIn = s.cmdIn := rfl
@[simp] theorem State.applyReset_rsp (s : State) : (s.applyReset).rsp = none := rfl
@[simp] theorem State.applyReset_rspReady (s : State) : (s.applyReset).rspReady = s.rspReady := rfl
@[simp] theorem State.applyReset_rspOut (s : State) : (s.applyReset).rspOut = s.rspOut := rfl
@[simp] theorem State.applyReset_txOut (s : State) : (s.applyReset).txOut = s.txOut := rfl
@[simp] theorem State.applyReset_trIn (s : State) : (s.applyReset).trIn = s.trIn := rfl
@[simp] theorem State.applyReset_trDraw (s : State) : (s.applyReset).trDraw = s.trDraw := rfl
@[simp] theorem State.applyReset_ctrDraw (s : State) : (s.applyReset).ctrDraw = s.ctrDraw := rfl
@[simp] theorem State.applyReset_resets (s : State) : (s.applyReset).resets = s.resets + 1 := rfl

/-! `abandon`: a command abandoned by reset (R128). -/

@[simp] theorem State.abandon_cfg (s : State) : (s.abandon).cfg = s.cfg := rfl
@[simp] theorem State.abandon_fb (s : State) : (s.abandon).fb = resetFb s.cfg (s.resets + 1) := rfl
@[simp] theorem State.abandon_dcs (s : State) : (s.abandon).dcs = .uninit := rfl
@[simp] theorem State.abandon_busErr (s : State) : (s.abandon).busErr = false := rfl
@[simp] theorem State.abandon_ill (s : State) : (s.abandon).ill = false := rfl
@[simp] theorem State.abandon_x (s : State) : (s.abandon).x = 0#16 := rfl
@[simp] theorem State.abandon_y (s : State) : (s.abandon).y = 0#16 := rfl
@[simp] theorem State.abandon_len (s : State) : (s.abandon).len = 0#16 := rfl
@[simp] theorem State.abandon_arg (s : State) : (s.abandon).arg = 0#8 := rfl
@[simp] theorem State.abandon_ctr (s : State) : (s.abandon).ctr = Counters.reset := rfl
@[simp] theorem State.abandon_txt (s : State) : (s.abandon).txt = resetTxt := rfl
@[simp] theorem State.abandon_pending (s : State) : (s.abandon).pending = [] := rfl
@[simp] theorem State.abandon_outstanding (s : State) : (s.abandon).outstanding = none := rfl
@[simp] theorem State.abandon_rstPin (s : State) : (s.abandon).rstPin = false := rfl
@[simp] theorem State.abandon_rstInCmd (s : State) : (s.abandon).rstInCmd = false := rfl
@[simp] theorem State.abandon_cmdIn (s : State) : (s.abandon).cmdIn = s.cmdIn := rfl
@[simp] theorem State.abandon_rsp (s : State) : (s.abandon).rsp = none := rfl
@[simp] theorem State.abandon_rspReady (s : State) : (s.abandon).rspReady = s.rspReady := rfl
@[simp] theorem State.abandon_rspOut (s : State) : (s.abandon).rspOut = s.rspOut := rfl
@[simp] theorem State.abandon_txOut (s : State) : (s.abandon).txOut = s.txOut := rfl
@[simp] theorem State.abandon_trIn (s : State) : (s.abandon).trIn = s.trIn := rfl
@[simp] theorem State.abandon_trDraw (s : State) : (s.abandon).trDraw = s.trDraw := rfl
@[simp] theorem State.abandon_ctrDraw (s : State) : (s.abandon).ctrDraw = s.ctrDraw := rfl
@[simp] theorem State.abandon_resets (s : State) : (s.abandon).resets = s.resets + 1 := rfl

/-! `send`: a request sent (R96). -/

@[simp] theorem State.send_cfg (s : State) (req : Request) : (s.send req).cfg = s.cfg := rfl
@[simp] theorem State.send_fb (s : State) (req : Request) : (s.send req).fb = s.fb := rfl
@[simp] theorem State.send_dcs (s : State) (req : Request) : (s.send req).dcs = s.dcs := rfl
@[simp] theorem State.send_busErr (s : State) (req : Request) : (s.send req).busErr = s.busErr := rfl
@[simp] theorem State.send_ill (s : State) (req : Request) : (s.send req).ill = s.ill := rfl
@[simp] theorem State.send_x (s : State) (req : Request) : (s.send req).x = s.x := rfl
@[simp] theorem State.send_y (s : State) (req : Request) : (s.send req).y = s.y := rfl
@[simp] theorem State.send_len (s : State) (req : Request) : (s.send req).len = s.len := rfl
@[simp] theorem State.send_arg (s : State) (req : Request) : (s.send req).arg = s.arg := rfl
@[simp] theorem State.send_ctr (s : State) (req : Request) : (s.send req).ctr = s.ctr := rfl
@[simp] theorem State.send_txt (s : State) (req : Request) : (s.send req).txt = s.txt := rfl
@[simp] theorem State.send_pending (s : State) (req : Request) : (s.send req).pending = s.pending := rfl
@[simp] theorem State.send_outstanding (s : State) (req : Request) : (s.send req).outstanding = some req := rfl
@[simp] theorem State.send_rstPin (s : State) (req : Request) : (s.send req).rstPin = s.rstPin := rfl
@[simp] theorem State.send_rstInCmd (s : State) (req : Request) : (s.send req).rstInCmd = s.rstInCmd := rfl
@[simp] theorem State.send_cmdIn (s : State) (req : Request) : (s.send req).cmdIn = s.cmdIn := rfl
@[simp] theorem State.send_rsp (s : State) (req : Request) : (s.send req).rsp = s.rsp := rfl
@[simp] theorem State.send_rspReady (s : State) (req : Request) : (s.send req).rspReady = s.rspReady := rfl
@[simp] theorem State.send_rspOut (s : State) (req : Request) : (s.send req).rspOut = s.rspOut := rfl
@[simp] theorem State.send_txOut (s : State) (req : Request) : (s.send req).txOut = s.txOut ++ [req] := rfl
@[simp] theorem State.send_trIn (s : State) (req : Request) : (s.send req).trIn = s.trIn := rfl
@[simp] theorem State.send_trDraw (s : State) (req : Request) : (s.send req).trDraw = s.trDraw := rfl
@[simp] theorem State.send_ctrDraw (s : State) (req : Request) : (s.send req).ctrDraw = s.ctrDraw := rfl
@[simp] theorem State.send_resets (s : State) (req : Request) : (s.send req).resets = s.resets := rfl

/-! `receive`: a result received (R96). -/

@[simp] theorem State.receive_cfg (s : State) (code : BitVec 2) : (s.receive code).cfg = s.cfg := rfl
@[simp] theorem State.receive_fb (s : State) (code : BitVec 2) : (s.receive code).fb = s.fb := rfl
@[simp] theorem State.receive_dcs (s : State) (code : BitVec 2) : (s.receive code).dcs = s.dcs := rfl
@[simp] theorem State.receive_busErr (s : State) (code : BitVec 2) : (s.receive code).busErr = s.busErr := rfl
@[simp] theorem State.receive_ill (s : State) (code : BitVec 2) : (s.receive code).ill = s.ill := rfl
@[simp] theorem State.receive_x (s : State) (code : BitVec 2) : (s.receive code).x = s.x := rfl
@[simp] theorem State.receive_y (s : State) (code : BitVec 2) : (s.receive code).y = s.y := rfl
@[simp] theorem State.receive_len (s : State) (code : BitVec 2) : (s.receive code).len = s.len := rfl
@[simp] theorem State.receive_arg (s : State) (code : BitVec 2) : (s.receive code).arg = s.arg := rfl
@[simp] theorem State.receive_ctr (s : State) (code : BitVec 2) : (s.receive code).ctr = { s.ctr with f := countResult code s.ctr.f } := rfl
@[simp] theorem State.receive_txt (s : State) (code : BitVec 2) : (s.receive code).txt = s.txt := rfl
@[simp] theorem State.receive_pending (s : State) (code : BitVec 2) : (s.receive code).pending = s.pending := rfl
@[simp] theorem State.receive_outstanding (s : State) (code : BitVec 2) : (s.receive code).outstanding = none := rfl
@[simp] theorem State.receive_rstPin (s : State) (code : BitVec 2) : (s.receive code).rstPin = s.rstPin := rfl
@[simp] theorem State.receive_rstInCmd (s : State) (code : BitVec 2) : (s.receive code).rstInCmd = s.rstInCmd := rfl
@[simp] theorem State.receive_cmdIn (s : State) (code : BitVec 2) : (s.receive code).cmdIn = s.cmdIn := rfl
@[simp] theorem State.receive_rsp (s : State) (code : BitVec 2) : (s.receive code).rsp = s.rsp := rfl
@[simp] theorem State.receive_rspReady (s : State) (code : BitVec 2) : (s.receive code).rspReady = s.rspReady := rfl
@[simp] theorem State.receive_rspOut (s : State) (code : BitVec 2) : (s.receive code).rspOut = s.rspOut := rfl
@[simp] theorem State.receive_txOut (s : State) (code : BitVec 2) : (s.receive code).txOut = s.txOut := rfl
@[simp] theorem State.receive_trIn (s : State) (code : BitVec 2) : (s.receive code).trIn = s.trIn := rfl
@[simp] theorem State.receive_trDraw (s : State) (code : BitVec 2) : (s.receive code).trDraw = s.trDraw := rfl
@[simp] theorem State.receive_ctrDraw (s : State) (code : BitVec 2) : (s.receive code).ctrDraw = s.ctrDraw := rfl
@[simp] theorem State.receive_resets (s : State) (code : BitVec 2) : (s.receive code).resets = s.resets := rfl

/-! `clearFailures`: F <- 0 (R100, R104). -/

@[simp] theorem State.clearFailures_cfg (s : State) : (s.clearFailures).cfg = s.cfg := rfl
@[simp] theorem State.clearFailures_fb (s : State) : (s.clearFailures).fb = s.fb := rfl
@[simp] theorem State.clearFailures_dcs (s : State) : (s.clearFailures).dcs = s.dcs := rfl
@[simp] theorem State.clearFailures_busErr (s : State) : (s.clearFailures).busErr = s.busErr := rfl
@[simp] theorem State.clearFailures_ill (s : State) : (s.clearFailures).ill = s.ill := rfl
@[simp] theorem State.clearFailures_x (s : State) : (s.clearFailures).x = s.x := rfl
@[simp] theorem State.clearFailures_y (s : State) : (s.clearFailures).y = s.y := rfl
@[simp] theorem State.clearFailures_len (s : State) : (s.clearFailures).len = s.len := rfl
@[simp] theorem State.clearFailures_arg (s : State) : (s.clearFailures).arg = s.arg := rfl
@[simp] theorem State.clearFailures_ctr (s : State) : (s.clearFailures).ctr = { s.ctr with f := 0 } := rfl
@[simp] theorem State.clearFailures_txt (s : State) : (s.clearFailures).txt = s.txt := rfl
@[simp] theorem State.clearFailures_pending (s : State) : (s.clearFailures).pending = s.pending := rfl
@[simp] theorem State.clearFailures_outstanding (s : State) : (s.clearFailures).outstanding = s.outstanding := rfl
@[simp] theorem State.clearFailures_rstPin (s : State) : (s.clearFailures).rstPin = s.rstPin := rfl
@[simp] theorem State.clearFailures_rstInCmd (s : State) : (s.clearFailures).rstInCmd = s.rstInCmd := rfl
@[simp] theorem State.clearFailures_cmdIn (s : State) : (s.clearFailures).cmdIn = s.cmdIn := rfl
@[simp] theorem State.clearFailures_rsp (s : State) : (s.clearFailures).rsp = s.rsp := rfl
@[simp] theorem State.clearFailures_rspReady (s : State) : (s.clearFailures).rspReady = s.rspReady := rfl
@[simp] theorem State.clearFailures_rspOut (s : State) : (s.clearFailures).rspOut = s.rspOut := rfl
@[simp] theorem State.clearFailures_txOut (s : State) : (s.clearFailures).txOut = s.txOut := rfl
@[simp] theorem State.clearFailures_trIn (s : State) : (s.clearFailures).trIn = s.trIn := rfl
@[simp] theorem State.clearFailures_trDraw (s : State) : (s.clearFailures).trDraw = s.trDraw := rfl
@[simp] theorem State.clearFailures_ctrDraw (s : State) : (s.clearFailures).ctrDraw = s.ctrDraw := rfl
@[simp] theorem State.clearFailures_resets (s : State) : (s.clearFailures).resets = s.resets := rfl

/-! `finishTransfer`: the end of INIT and FLUSH (R100, R104). -/

@[simp] theorem State.finishTransfer_cfg (s : State) : (s.finishTransfer).cfg = s.cfg := rfl
@[simp] theorem State.finishTransfer_fb (s : State) : (s.finishTransfer).fb = s.fb := rfl
@[simp] theorem State.finishTransfer_dcs (s : State) : (s.finishTransfer).dcs = s.dcs := rfl
@[simp] theorem State.finishTransfer_busErr (s : State) : (s.finishTransfer).busErr = (s.busErr || s.ctr.f != 0) := rfl
@[simp] theorem State.finishTransfer_ill (s : State) : (s.finishTransfer).ill = s.ill := rfl
@[simp] theorem State.finishTransfer_x (s : State) : (s.finishTransfer).x = s.x := rfl
@[simp] theorem State.finishTransfer_y (s : State) : (s.finishTransfer).y = s.y := rfl
@[simp] theorem State.finishTransfer_len (s : State) : (s.finishTransfer).len = s.len := rfl
@[simp] theorem State.finishTransfer_arg (s : State) : (s.finishTransfer).arg = s.arg := rfl
@[simp] theorem State.finishTransfer_ctr (s : State) : (s.finishTransfer).ctr = s.ctr := rfl
@[simp] theorem State.finishTransfer_txt (s : State) : (s.finishTransfer).txt = s.txt := rfl
@[simp] theorem State.finishTransfer_pending (s : State) : (s.finishTransfer).pending = s.pending := rfl
@[simp] theorem State.finishTransfer_outstanding (s : State) : (s.finishTransfer).outstanding = s.outstanding := rfl
@[simp] theorem State.finishTransfer_rstPin (s : State) : (s.finishTransfer).rstPin = s.rstPin := rfl
@[simp] theorem State.finishTransfer_rstInCmd (s : State) : (s.finishTransfer).rstInCmd = s.rstInCmd := rfl
@[simp] theorem State.finishTransfer_cmdIn (s : State) : (s.finishTransfer).cmdIn = s.cmdIn := rfl
@[simp] theorem State.finishTransfer_rsp (s : State) : (s.finishTransfer).rsp = some (responseWord (if s.ctr.f = 0 then .ok else .busFail) (BitVec.ofNat 16 s.ctr.f)) := rfl
@[simp] theorem State.finishTransfer_rspReady (s : State) : (s.finishTransfer).rspReady = s.rspReady := rfl
@[simp] theorem State.finishTransfer_rspOut (s : State) : (s.finishTransfer).rspOut = s.rspOut := rfl
@[simp] theorem State.finishTransfer_txOut (s : State) : (s.finishTransfer).txOut = s.txOut := rfl
@[simp] theorem State.finishTransfer_trIn (s : State) : (s.finishTransfer).trIn = s.trIn := rfl
@[simp] theorem State.finishTransfer_trDraw (s : State) : (s.finishTransfer).trDraw = s.trDraw := rfl
@[simp] theorem State.finishTransfer_ctrDraw (s : State) : (s.finishTransfer).ctrDraw = s.ctrDraw := rfl
@[simp] theorem State.finishTransfer_resets (s : State) : (s.finishTransfer).resets = s.resets := rfl

/-! `loadText`: TXT written (R90). -/

@[simp] theorem State.loadText_cfg (s : State) (text : List Byte) : (s.loadText text).cfg = s.cfg := rfl
@[simp] theorem State.loadText_fb (s : State) (text : List Byte) : (s.loadText text).fb = s.fb := rfl
@[simp] theorem State.loadText_dcs (s : State) (text : List Byte) : (s.loadText text).dcs = s.dcs := rfl
@[simp] theorem State.loadText_busErr (s : State) (text : List Byte) : (s.loadText text).busErr = s.busErr := rfl
@[simp] theorem State.loadText_ill (s : State) (text : List Byte) : (s.loadText text).ill = s.ill := rfl
@[simp] theorem State.loadText_x (s : State) (text : List Byte) : (s.loadText text).x = s.x := rfl
@[simp] theorem State.loadText_y (s : State) (text : List Byte) : (s.loadText text).y = s.y := rfl
@[simp] theorem State.loadText_len (s : State) (text : List Byte) : (s.loadText text).len = s.len := rfl
@[simp] theorem State.loadText_arg (s : State) (text : List Byte) : (s.loadText text).arg = s.arg := rfl
@[simp] theorem State.loadText_ctr (s : State) (text : List Byte) : (s.loadText text).ctr = s.ctr := rfl
@[simp] theorem State.loadText_txt (s : State) (text : List Byte) : (s.loadText text).txt = text ++ s.txt.drop text.length := rfl
@[simp] theorem State.loadText_pending (s : State) (text : List Byte) : (s.loadText text).pending = s.pending := rfl
@[simp] theorem State.loadText_outstanding (s : State) (text : List Byte) : (s.loadText text).outstanding = s.outstanding := rfl
@[simp] theorem State.loadText_rstPin (s : State) (text : List Byte) : (s.loadText text).rstPin = s.rstPin := rfl
@[simp] theorem State.loadText_rstInCmd (s : State) (text : List Byte) : (s.loadText text).rstInCmd = s.rstInCmd := rfl
@[simp] theorem State.loadText_cmdIn (s : State) (text : List Byte) : (s.loadText text).cmdIn = s.cmdIn := rfl
@[simp] theorem State.loadText_rsp (s : State) (text : List Byte) : (s.loadText text).rsp = s.rsp := rfl
@[simp] theorem State.loadText_rspReady (s : State) (text : List Byte) : (s.loadText text).rspReady = s.rspReady := rfl
@[simp] theorem State.loadText_rspOut (s : State) (text : List Byte) : (s.loadText text).rspOut = s.rspOut := rfl
@[simp] theorem State.loadText_txOut (s : State) (text : List Byte) : (s.loadText text).txOut = s.txOut := rfl
@[simp] theorem State.loadText_trIn (s : State) (text : List Byte) : (s.loadText text).trIn = s.trIn := rfl
@[simp] theorem State.loadText_trDraw (s : State) (text : List Byte) : (s.loadText text).trDraw = s.trDraw := rfl
@[simp] theorem State.loadText_ctrDraw (s : State) (text : List Byte) : (s.loadText text).ctrDraw = s.ctrDraw := rfl
@[simp] theorem State.loadText_resets (s : State) (text : List Byte) : (s.loadText text).resets = s.resets := rfl

/-! `consume`: a command's words taken (R60). -/

@[simp] theorem State.consume_cfg (s : State) (rest : List Word64) : (s.consume rest).cfg = s.cfg := rfl
@[simp] theorem State.consume_fb (s : State) (rest : List Word64) : (s.consume rest).fb = s.fb := rfl
@[simp] theorem State.consume_dcs (s : State) (rest : List Word64) : (s.consume rest).dcs = s.dcs := rfl
@[simp] theorem State.consume_busErr (s : State) (rest : List Word64) : (s.consume rest).busErr = s.busErr := rfl
@[simp] theorem State.consume_ill (s : State) (rest : List Word64) : (s.consume rest).ill = s.ill := rfl
@[simp] theorem State.consume_x (s : State) (rest : List Word64) : (s.consume rest).x = s.x := rfl
@[simp] theorem State.consume_y (s : State) (rest : List Word64) : (s.consume rest).y = s.y := rfl
@[simp] theorem State.consume_len (s : State) (rest : List Word64) : (s.consume rest).len = s.len := rfl
@[simp] theorem State.consume_arg (s : State) (rest : List Word64) : (s.consume rest).arg = s.arg := rfl
@[simp] theorem State.consume_ctr (s : State) (rest : List Word64) : (s.consume rest).ctr = s.ctr := rfl
@[simp] theorem State.consume_txt (s : State) (rest : List Word64) : (s.consume rest).txt = s.txt := rfl
@[simp] theorem State.consume_pending (s : State) (rest : List Word64) : (s.consume rest).pending = [] := rfl
@[simp] theorem State.consume_outstanding (s : State) (rest : List Word64) : (s.consume rest).outstanding = s.outstanding := rfl
@[simp] theorem State.consume_rstPin (s : State) (rest : List Word64) : (s.consume rest).rstPin = s.rstPin := rfl
@[simp] theorem State.consume_rstInCmd (s : State) (rest : List Word64) : (s.consume rest).rstInCmd = s.rstInCmd := rfl
@[simp] theorem State.consume_cmdIn (s : State) (rest : List Word64) : (s.consume rest).cmdIn = rest := rfl
@[simp] theorem State.consume_rsp (s : State) (rest : List Word64) : (s.consume rest).rsp = s.rsp := rfl
@[simp] theorem State.consume_rspReady (s : State) (rest : List Word64) : (s.consume rest).rspReady = s.rspReady := rfl
@[simp] theorem State.consume_rspOut (s : State) (rest : List Word64) : (s.consume rest).rspOut = s.rspOut := rfl
@[simp] theorem State.consume_txOut (s : State) (rest : List Word64) : (s.consume rest).txOut = s.txOut := rfl
@[simp] theorem State.consume_trIn (s : State) (rest : List Word64) : (s.consume rest).trIn = s.trIn := rfl
@[simp] theorem State.consume_trDraw (s : State) (rest : List Word64) : (s.consume rest).trDraw = s.trDraw := rfl
@[simp] theorem State.consume_ctrDraw (s : State) (rest : List Word64) : (s.consume rest).ctrDraw = s.ctrDraw := rfl
@[simp] theorem State.consume_resets (s : State) (rest : List Word64) : (s.consume rest).resets = s.resets := rfl

/-! `collect`: every word on offer taken (R61); the operand registers and TXT are in Laws/Step.lean. -/

@[simp] theorem State.collect_cfg (s : State) : s.collect.cfg = s.cfg := by
  unfold State.collect; split <;> rfl
@[simp] theorem State.collect_fb (s : State) : s.collect.fb = s.fb := by
  unfold State.collect; split <;> rfl
@[simp] theorem State.collect_dcs (s : State) : s.collect.dcs = s.dcs := by
  unfold State.collect; split <;> rfl
@[simp] theorem State.collect_busErr (s : State) : s.collect.busErr = s.busErr := by
  unfold State.collect; split <;> rfl
@[simp] theorem State.collect_ill (s : State) : s.collect.ill = s.ill := by
  unfold State.collect; split <;> rfl
@[simp] theorem State.collect_ctr (s : State) : s.collect.ctr = s.ctr := by
  unfold State.collect; split <;> rfl
@[simp] theorem State.collect_pending (s : State) : (s.collect).pending = s.words := rfl
@[simp] theorem State.collect_outstanding (s : State) : s.collect.outstanding = s.outstanding := by
  unfold State.collect; split <;> rfl
@[simp] theorem State.collect_rstPin (s : State) : s.collect.rstPin = s.rstPin := by
  unfold State.collect; split <;> rfl
@[simp] theorem State.collect_rstInCmd (s : State) : s.collect.rstInCmd = s.rstInCmd := by
  unfold State.collect; split <;> rfl
@[simp] theorem State.collect_cmdIn (s : State) : (s.collect).cmdIn = [] := rfl
@[simp] theorem State.collect_rsp (s : State) : s.collect.rsp = s.rsp := by
  unfold State.collect; split <;> rfl
@[simp] theorem State.collect_rspReady (s : State) : s.collect.rspReady = s.rspReady := by
  unfold State.collect; split <;> rfl
@[simp] theorem State.collect_rspOut (s : State) : s.collect.rspOut = s.rspOut := by
  unfold State.collect; split <;> rfl
@[simp] theorem State.collect_txOut (s : State) : s.collect.txOut = s.txOut := by
  unfold State.collect; split <;> rfl
@[simp] theorem State.collect_trIn (s : State) : s.collect.trIn = s.trIn := by
  unfold State.collect; split <;> rfl
@[simp] theorem State.collect_trDraw (s : State) : s.collect.trDraw = s.trDraw := by
  unfold State.collect; split <;> rfl
@[simp] theorem State.collect_ctrDraw (s : State) : s.collect.ctrDraw = s.ctrDraw := by
  unfold State.collect; split <;> rfl
@[simp] theorem State.collect_resets (s : State) : s.collect.resets = s.resets := by
  unfold State.collect; split <;> rfl

/-! `offer`: words put next on the channel. -/

@[simp] theorem State.offer_cfg (s : State) (words : List Word64) : (s.offer words).cfg = s.cfg := rfl
@[simp] theorem State.offer_fb (s : State) (words : List Word64) : (s.offer words).fb = s.fb := rfl
@[simp] theorem State.offer_dcs (s : State) (words : List Word64) : (s.offer words).dcs = s.dcs := rfl
@[simp] theorem State.offer_busErr (s : State) (words : List Word64) : (s.offer words).busErr = s.busErr := rfl
@[simp] theorem State.offer_ill (s : State) (words : List Word64) : (s.offer words).ill = s.ill := rfl
@[simp] theorem State.offer_x (s : State) (words : List Word64) : (s.offer words).x = s.x := rfl
@[simp] theorem State.offer_y (s : State) (words : List Word64) : (s.offer words).y = s.y := rfl
@[simp] theorem State.offer_len (s : State) (words : List Word64) : (s.offer words).len = s.len := rfl
@[simp] theorem State.offer_arg (s : State) (words : List Word64) : (s.offer words).arg = s.arg := rfl
@[simp] theorem State.offer_ctr (s : State) (words : List Word64) : (s.offer words).ctr = s.ctr := rfl
@[simp] theorem State.offer_txt (s : State) (words : List Word64) : (s.offer words).txt = s.txt := rfl
@[simp] theorem State.offer_pending (s : State) (words : List Word64) : (s.offer words).pending = [] := rfl
@[simp] theorem State.offer_outstanding (s : State) (words : List Word64) : (s.offer words).outstanding = s.outstanding := rfl
@[simp] theorem State.offer_rstPin (s : State) (words : List Word64) : (s.offer words).rstPin = false := rfl
@[simp] theorem State.offer_rstInCmd (s : State) (words : List Word64) : (s.offer words).rstInCmd = false := rfl
@[simp] theorem State.offer_cmdIn (s : State) (words : List Word64) : (s.offer words).cmdIn = words ++ s.cmdIn := rfl
@[simp] theorem State.offer_rsp (s : State) (words : List Word64) : (s.offer words).rsp = none := rfl
@[simp] theorem State.offer_rspReady (s : State) (words : List Word64) : (s.offer words).rspReady = s.rspReady := rfl
@[simp] theorem State.offer_rspOut (s : State) (words : List Word64) : (s.offer words).rspOut = s.rspOut := rfl
@[simp] theorem State.offer_txOut (s : State) (words : List Word64) : (s.offer words).txOut = s.txOut := rfl
@[simp] theorem State.offer_trIn (s : State) (words : List Word64) : (s.offer words).trIn = s.trIn := rfl
@[simp] theorem State.offer_trDraw (s : State) (words : List Word64) : (s.offer words).trDraw = s.trDraw := rfl
@[simp] theorem State.offer_ctrDraw (s : State) (words : List Word64) : (s.offer words).ctrDraw = s.ctrDraw := rfl
@[simp] theorem State.offer_resets (s : State) (words : List Word64) : (s.offer words).resets = s.resets := rfl

/-! `State.reset` (R31). -/

@[simp] theorem State.reset_cfg : State.reset.cfg = defaultConfig := rfl
@[simp] theorem State.reset_fb : State.reset.fb = resetFb defaultConfig 0 := by simp only [State.reset]
@[simp] theorem State.reset_dcs : State.reset.dcs = .uninit := rfl
@[simp] theorem State.reset_busErr : State.reset.busErr = false := rfl
@[simp] theorem State.reset_ill : State.reset.ill = false := rfl
@[simp] theorem State.reset_x : State.reset.x = 0#16 := rfl
@[simp] theorem State.reset_y : State.reset.y = 0#16 := rfl
@[simp] theorem State.reset_len : State.reset.len = 0#16 := rfl
@[simp] theorem State.reset_arg : State.reset.arg = 0#8 := rfl
@[simp] theorem State.reset_ctr : State.reset.ctr = Counters.reset := rfl
@[simp] theorem State.reset_txt : State.reset.txt = resetTxt := by simp only [State.reset]
@[simp] theorem State.reset_pending : State.reset.pending = [] := rfl
@[simp] theorem State.reset_outstanding : State.reset.outstanding = none := rfl
@[simp] theorem State.reset_rstPin : State.reset.rstPin = false := rfl
@[simp] theorem State.reset_rstInCmd : State.reset.rstInCmd = false := rfl
@[simp] theorem State.reset_cmdIn : State.reset.cmdIn = [] := rfl
@[simp] theorem State.reset_rsp : State.reset.rsp = none := rfl
@[simp] theorem State.reset_rspReady : State.reset.rspReady = true := rfl
@[simp] theorem State.reset_rspOut : State.reset.rspOut = [] := rfl
@[simp] theorem State.reset_txOut : State.reset.txOut = [] := rfl
@[simp] theorem State.reset_trIn : State.reset.trIn = [] := rfl
@[simp] theorem State.reset_trDraw : State.reset.trDraw = 0 := rfl
@[simp] theorem State.reset_ctrDraw : State.reset.ctrDraw = 0 := rfl
@[simp] theorem State.reset_resets : State.reset.resets = 0 := rfl

@[simp] theorem length_resetTxt : resetTxt.length = 255 := List.length_replicate

/-- The reset machine's configuration can be built (R12). -/
theorem defaultConfig_valid : defaultConfig.valid = true := by
  have h : defaultConfig.font.length = 59 := by simp [defaultConfig, defaultFont]
  simp only [Config.valid, Config.geometryOk, h]
  decide

end Sys2Proof.Machine
end

