-- ==== Sys2Proof/Laws/Transport.lean ====
section
/-! SUPPORT. Everything a wait for the transport can do (R95 to R98, R120, R128): the three ways it ends, and its exact end when the transport keeps its contract. -/

namespace Sys2Proof.Machine

/-- `s` after `sent` was sent and answered: only the transport channels and F differ. -/
def State.afterTransport (s : State) (sent : List Request) (o : Option Request) (l : List TrEvent) (d f : Nat) : State :=
  { s with outstanding := o, txOut := s.txOut ++ sent, trIn := l, trDraw := d, ctr := { s.ctr with f := f } }

theorem countResult_le {code : BitVec 2} {f : Nat} (h : f ≤ 65535) : countResult code f ≤ 65535 := by
  unfold countResult
  split <;> omega

theorem transact_answered {req : Request} {s t : State} (h : transact req s = .answered t) :
    ∃ d code, t = s.afterTransport [req] none (s.trIn.drop 1) d (countResult code s.ctr.f) := by
  unfold transact at h
  split at h
  · rename_i hl
    cases h
    exact ⟨s.trDraw + 1, Config.trResult s.trDraw, by simp [State.afterTransport, State.receive, State.send, hl]⟩
  · rename_i code rest hl
    cases h
    exact ⟨s.trDraw, code, by simp [State.afterTransport, State.receive, State.send, hl]⟩
  · cases h
  · cases h

theorem transact_abandoned {req : Request} {s t : State} (h : transact req s = .abandoned t) :
    t = (s.afterTransport [req] none (s.trIn.drop 1) s.trDraw 0).applyReset ∧ s.trIn.head? = some .rst := by
  unfold transact at h
  split at h
  · cases h
  · cases h
  · rename_i rest hl
    cases h
    simp [State.applyReset, State.afterTransport, State.send, hl]
  · cases h

theorem transact_hung {req : Request} {s : State} (h : transact req s = .hung) : s.trIn.head? = some .silent := by
  unfold transact at h
  split at h
  · cases h
  · cases h
  · cases h
  · rename_i hl
    simp [hl]

/-- Requests that are all answered: they are sent in order, and nothing but the transport channels and F changes. -/
theorem runRequests_answered {reqs : List Request} {s t : State} (h : runRequests reqs s = .answered t) :
    ∃ o d f, t = s.afterTransport reqs o (s.trIn.drop reqs.length) d f ∧ (s.ctr.f ≤ 65535 → f ≤ 65535)
      ∧ (s.outstanding = none → o = none) := by
  induction reqs generalizing s with
  | nil =>
    simp only [runRequests, Waited.answered.injEq] at h
    subst h
    exact ⟨s.outstanding, s.trDraw, s.ctr.f, by simp [State.afterTransport], id, id⟩
  | cons req reqs ih =>
    rw [runRequests] at h
    split at h
    · rename_i s' hs
      obtain ⟨d, code, rfl⟩ := transact_answered hs
      obtain ⟨o, d', f', rfl, hf, ho⟩ := ih h
      refine ⟨o, d', f', ?_, fun hle => hf (countResult_le hle), fun _ => ho rfl⟩
      simp [State.afterTransport]
    · cases h
    · cases h

/-- A reset met in the wait: some of the requests were sent, and the state is a reset state (R128). -/
theorem runRequests_abandoned {reqs : List Request} {s t : State} (h : runRequests reqs s = .abandoned t) :
    ∃ sent rest d, reqs = sent ++ rest ∧ sent ≠ []
      ∧ t = (s.afterTransport sent none (s.trIn.drop sent.length) d 0).applyReset ∧ TrEvent.rst ∈ s.trIn := by
  induction reqs generalizing s with
  | nil => cases h
  | cons req reqs ih =>
    rw [runRequests] at h
    split at h
    · rename_i s' hs
      obtain ⟨d, code, rfl⟩ := transact_answered hs
      obtain ⟨sent, rest, d', rfl, hne, rfl, hmem⟩ := ih h
      refine ⟨req :: sent, rest, d', rfl, by simp, ?_, List.mem_of_mem_drop hmem⟩
      simp [State.afterTransport, State.applyReset]
    · rename_i s' hs
      cases h
      obtain ⟨rfl, hh⟩ := transact_abandoned hs
      exact ⟨[req], reqs, s.trDraw, rfl, by simp, rfl, List.mem_of_mem_head? hh⟩
    · cases h

/-- A wait that never ends met a silent transport (R120). -/
theorem runRequests_hung {reqs : List Request} {s : State} (h : runRequests reqs s = .hung) :
    TrEvent.silent ∈ s.trIn := by
  induction reqs generalizing s with
  | nil => cases h
  | cons req reqs ih =>
    rw [runRequests] at h
    split at h
    · rename_i s' hs
      obtain ⟨d, code, rfl⟩ := transact_answered hs
      exact List.mem_of_mem_drop (ih h)
    · cases h
    · rename_i hs
      exact List.mem_of_mem_head? (transact_hung hs)

/-- The three ways a command made of requests ends. -/
theorem runTransfer_cases {reqs : List Request} {finish : State → State} {s t : State}
    (h : runTransfer reqs finish s = .next t) :
    (∃ o d f, t = finish (s.afterTransport reqs o (s.trIn.drop reqs.length) d f) ∧ f ≤ 65535
        ∧ (s.outstanding = none → o = none))
      ∨ (∃ sent rest d, reqs = sent ++ rest ∧ sent ≠ []
          ∧ t = (s.afterTransport sent none (s.trIn.drop sent.length) d 0).applyReset ∧ TrEvent.rst ∈ s.trIn) := by
  unfold runTransfer at h
  split at h
  · rename_i s' hs
    cases h
    obtain ⟨o, d, f, rfl, hf, ho⟩ := runRequests_answered hs
    exact .inl ⟨o, d, f, by simp [State.afterTransport, State.clearFailures], hf (Nat.zero_le _), ho⟩
  · rename_i s' hs
    cases h
    obtain ⟨sent, rest, d, rfl, hne, rfl, hmem⟩ := runRequests_abandoned hs
    exact .inr ⟨sent, rest, d, rfl, hne, by simp [State.afterTransport, State.clearFailures], hmem⟩
  · cases h

theorem runTransfer_fault {reqs : List Request} {finish : State → State} {s : State} {r : Fault}
    (h : runTransfer reqs finish s = .fault r) : r = .transportSilent ∧ TrEvent.silent ∈ s.trIn := by
  unfold runTransfer at h
  split at h
  · cases h
  · cases h
  · rename_i hs
    cases h
    exact ⟨rfl, by simpa using runRequests_hung hs⟩

theorem runTransfer_not_refused {reqs : List Request} {finish : State → State} {s : State} {r : Refusal} :
    runTransfer reqs finish s ≠ .refused r := by
  unfold runTransfer
  split <;> simp

/-! The exact end, under the contract of R95 item 3. -/

/-- F after the results of a list: saturating (R64, R96). -/
theorem foldl_countResult (codes : List (BitVec 2)) {f : Nat} (hf : f ≤ 65535) :
    codes.foldl (fun f code => countResult code f) f = min (f + codes.countP (· != trOk)) 65535 := by
  induction codes generalizing f with
  | nil => simpa using hf
  | cons code codes ih =>
    rw [List.foldl_cons, ih (countResult_le hf), List.countP_cons]
    unfold countResult trOk
    by_cases hc : code = 0#2
    · simp [hc]
    · simp only [hc, if_false, bne_iff_ne, ne_eq, not_false_eq_true, if_true]
      omega

/-- Requests that the transport answers, one result each, none of them early (R95 item 3, R97). -/
theorem runRequests_of_answers {reqs : List Request} {s : State} (h : s.transportAnswers reqs.length = true) :
    runRequests reqs s = .answered (s.afterTransport reqs (if reqs = [] then s.outstanding else none)
      (s.trIn.drop reqs.length) (s.trDraw + (reqs.length - s.trIn.length))
      ((resultsFrom s.trIn s.trDraw reqs.length).foldl (fun f code => countResult code f) s.ctr.f)) := by
  induction reqs generalizing s with
  | nil => simp [runRequests, State.afterTransport, resultsFrom]
  | cons req reqs ih =>
    rw [runRequests]
    unfold transact
    cases hl : s.trIn with
    | nil =>
      simp only
      rw [ih (by simp [State.transportAnswers, hl])]
      simp [State.afterTransport, State.receive, State.send, hl, resultsFrom, Nat.add_comm, Nat.add_left_comm]
    | cons e rest =>
      have hall := h
      simp only [State.transportAnswers, hl, List.length_cons, List.take_succ_cons, List.all_cons,
        Bool.and_eq_true] at hall
      cases e with
      | result code =>
        simp only
        rw [ih (by simpa [State.transportAnswers] using hall.2)]
        simp [State.afterTransport, State.receive, State.send, resultsFrom]
      | rst => simp [TrEvent.isResult] at hall
      | silent => simp [TrEvent.isResult] at hall

/-- A command made of requests that the transport answers runs to its end (R97, R142), with F the saturated number of
failures (R64). -/
theorem runTransfer_of_answers {reqs : List Request} {finish : State → State} {s : State}
    (h : s.transportAnswers reqs.length = true) :
    runTransfer reqs finish s = .next (finish (s.afterTransport reqs (if reqs = [] then s.outstanding else none)
      (s.trIn.drop reqs.length) (s.trDraw + (reqs.length - s.trIn.length)) (min (s.failures reqs.length) 65535))) := by
  unfold runTransfer
  rw [runRequests_of_answers (by simpa [State.transportAnswers] using h)]
  simp only [State.clearFailures_trIn, State.clearFailures_trDraw, State.clearFailures_outstanding,
    State.clearFailures_ctr]
  rw [foldl_countResult _ (Nat.zero_le _), Nat.zero_add]
  simp [State.afterTransport, State.clearFailures, State.failures]

end Sys2Proof.Machine
end

