-- ==== Sys2Proof/Laws/Step.lean ====
section
/-! SUPPORT. What a command and a step can do: one inversion lemma for exec, one for step. -/

namespace Sys2Proof.Machine

/-- A command that ends in a next state either ran to its response, or was abandoned by a reset while it waited for the
transport (R128). -/
theorem exec_next_cases {i : Instr} {s t : State} (h : exec i s = .next t) :
    (s.sameInputs t ∧ t.txOut = s.txOut ++ requestsOf i s ∧ ∃ code data, s.responded t code data)
      ∨ (∃ sent rest d, requestsOf i s = sent ++ rest ∧ sent ≠ []
          ∧ t = (s.afterTransport sent none (s.trIn.drop sent.length) d 0).applyReset ∧ TrEvent.rst ∈ s.trIn) := by
  cases i with
  | clear => cases h; exact .inl ⟨⟨rfl, rfl, rfl, rfl, rfl, rfl, rfl⟩, by simp [requestsOf], _, _, rfl, rfl⟩
  | setpx x y on => cases h; exact .inl ⟨⟨rfl, rfl, rfl, rfl, rfl, rfl, rfl⟩, by simp [requestsOf], _, _, rfl, rfl⟩
  | getpx x y => cases h; exact .inl ⟨⟨rfl, rfl, rfl, rfl, rfl, rfl, rfl⟩, by simp [requestsOf], _, _, rfl, rfl⟩
  | hline x y len on => cases h; exact .inl ⟨⟨rfl, rfl, rfl, rfl, rfl, rfl, rfl⟩, by simp [requestsOf], _, _, rfl, rfl⟩
  | vline x y len on => cases h; exact .inl ⟨⟨rfl, rfl, rfl, rfl, rfl, rfl, rfl⟩, by simp [requestsOf], _, _, rfl, rfl⟩
  | char x y ch => cases h; exact .inl ⟨⟨rfl, rfl, rfl, rfl, rfl, rfl, rfl⟩, by simp [requestsOf], _, _, rfl, rfl⟩
  | str x y n payload =>
    simp only [exec, execStr, Host.Outcome.next.injEq] at h
    subst h
    unfold strState
    split
    · exact .inl ⟨⟨rfl, rfl, rfl, rfl, rfl, rfl, rfl⟩, by simp [requestsOf], _, _, rfl, rfl⟩
    · exact .inl ⟨⟨rfl, rfl, rfl, rfl, rfl, rfl, rfl⟩, by simp [requestsOf], _, _, rfl, rfl⟩
  | init =>
    rcases runTransfer_cases h with ⟨o, d, f, rfl, -, -⟩ | ⟨sent, rest, d, hr, hne, rfl, hm⟩
    · exact .inl ⟨⟨rfl, rfl, rfl, rfl, rfl, rfl, rfl⟩, rfl, _, _, rfl, rfl⟩
    · exact .inr ⟨sent, rest, d, hr, hne, rfl, hm⟩
  | flush =>
    rcases runTransfer_cases h with ⟨o, d, f, rfl, -, -⟩ | ⟨sent, rest, d, hr, hne, rfl, hm⟩
    · exact .inl ⟨⟨rfl, rfl, rfl, rfl, rfl, rfl, rfl⟩, rfl, _, _, rfl, rfl⟩
    · exact .inr ⟨sent, rest, d, hr, hne, rfl, hm⟩
  | status => cases h; exact .inl ⟨⟨rfl, rfl, rfl, rfl, rfl, rfl, rfl⟩, by simp [requestsOf], _, _, rfl, rfl⟩

/-- An unfinished command is an STR header and less than its payload (R60, R61). -/
theorem decode_incomplete {l : List Word64} (h : decode l = .incomplete) :
    ∃ w ws, l = w :: ws ∧ classify w = some .str ∧ ws.length < payloadWords (countField w) := by
  cases l with
  | nil => cases h
  | cons w ws =>
    rw [decode] at h
    split at h
    · cases h
    · rename_i op hc
      cases op <;> simp only [decodeRow, decodeStr, reduceCtorEq] at h
      split at h
      · cases h
      · exact ⟨w, ws, rfl, hc, by omega⟩

/-- A response on offer is taken or stays (R70). -/
theorem offerResponse_cases (s : State) :
    (s.rspReady = true ∧ s.offerResponse = s.takeResponse) ∨ (s.rspReady = false ∧ s.offerResponse = s) := by
  unfold State.offerResponse
  cases s.rspReady <;> simp

/-- An accepted illegal word is abandoned or performs `raise Illegal` (R65, R128). -/
theorem rejectWord_cases (s : State) :
    (s.rstInCmd = true ∧ s.rejectWord = s.abandon) ∨ (s.rstInCmd = false ∧ s.rejectWord = s.raiseIllegal) := by
  unfold State.rejectWord
  cases s.rstInCmd <;> simp

/-- Loading a whole text after a first part of it leaves what loading the whole text alone leaves (R90). -/
theorem loadText_loadText (s : State) {first text : List Byte} (h : first.length ≤ text.length) :
    (s.loadText first).loadText text = s.loadText text := by
  simp only [State.loadText]
  congr 2
  rw [List.drop_append, List.drop_drop, List.drop_eq_nil_of_le h, List.nil_append]
  congr 1
  omega

/-- Collecting takes the words on offer, and loads the operand registers and the characters that have come (R53, R90). -/
theorem collect_eq {s : State} {w : Word64} {ws : List Word64} (h : s.words = w :: ws) :
    s.collect = { (s.loadOperands (xField w) (yField w) (lenField w) (argField w)).loadText
      (receivedText (countField w) ws) with pending := w :: ws, cmdIn := [] } := by
  unfold State.collect
  rw [h]

/-- A step that ends in a next state is a reset, the handling of a response on offer, an idle step, a payload still being
collected, an illegal word, an abandoned command, or a command (R60, R61, R65, R70, R127, R128). -/
theorem step_next_cases {s t : State} (h : step s = .next t) :
    s.cfg.valid = true ∧
      ((s.rstPin = true ∧ t = s.applyReset)
        ∨ (s.rstPin = false ∧ s.rsp.isSome = true ∧ t = s.offerResponse)
        ∨ (s.rstPin = false ∧ s.rsp = none ∧
          ((decode s.words = .noWord ∧ t = s)
            ∨ (decode s.words = .incomplete ∧ t = s.collect)
            ∨ (∃ why rest, decode s.words = .illegal why rest ∧ t = (s.consume rest).rejectWord)
            ∨ (∃ i rest, decode s.words = .command i rest ∧ s.rstInCmd = true ∧ t = (s.consume rest).abandon)
            ∨ (∃ i rest, decode s.words = .command i rest ∧ s.rstInCmd = false
              ∧ exec i (s.consume rest) = .next t)))) := by
  unfold step fetch at h
  by_cases hv : s.cfg.valid = false
  · simp [hv] at h
  · refine ⟨by simpa using hv, ?_⟩
    rw [if_neg hv] at h
    cases hr : s.rstPin with
    | true =>
      simp only [hr, if_true, Host.Outcome.next.injEq] at h
      exact .inl ⟨rfl, h.symm⟩
    | false =>
      simp only [hr, Bool.false_eq_true, if_false] at h
      cases hq : s.rsp with
      | some w =>
        simp only [hq, Option.isSome_some, if_true, Host.Outcome.next.injEq] at h
        exact .inr (.inl ⟨rfl, rfl, h.symm⟩)
      | none =>
        simp only [hq, Option.isSome_none, Bool.false_eq_true, if_false] at h
        refine .inr (.inr ⟨rfl, rfl, ?_⟩)
        cases hd : decode s.words with
        | noWord =>
          simp only [hd, Host.Outcome.next.injEq] at h
          exact .inl ⟨rfl, h.symm⟩
        | incomplete =>
          simp only [hd, Host.Outcome.next.injEq] at h
          exact .inr (.inl ⟨rfl, h.symm⟩)
        | illegal why rest =>
          simp only [hd, Host.Outcome.next.injEq] at h
          exact .inr (.inr (.inl ⟨why, rest, rfl, h.symm⟩))
        | command i rest =>
          cases hc : s.rstInCmd with
          | true =>
            simp only [hd, hc, if_true, Host.Outcome.next.injEq] at h
            exact .inr (.inr (.inr (.inl ⟨i, rest, rfl, rfl, h.symm⟩)))
          | false =>
            simp only [hd, hc, Bool.false_eq_true, if_false] at h
            exact .inr (.inr (.inr (.inr ⟨i, rest, rfl, rfl, h⟩)))

/-- A step with a valid configuration, no reset and no response on offer goes as the decoder says. -/
theorem step_of_decode {s : State} (hv : s.cfg.valid = true) (hr : s.rstPin = false) (hq : s.rsp = none) :
    step s =
      match decode s.words with
      | .noWord => .next s
      | .incomplete => .next s.collect
      | .illegal _ rest => .next (s.consume rest).rejectWord
      | .command i rest => if s.rstInCmd then .next (s.consume rest).abandon else exec i (s.consume rest) := by
  unfold step fetch
  simp only [hv, hr, hq, Option.isSome_none, Bool.true_eq_false, Bool.false_eq_true, if_false]
  cases decode s.words <;> try rfl
  simp only
  cases s.rstInCmd <;> rfl

/-- A step with a response on offer transfers it when the host is ready, and otherwise waits (R70). -/
theorem step_of_response {s : State} (hv : s.cfg.valid = true) (hr : s.rstPin = false) (hq : s.rsp.isSome = true) :
    step s = .next s.offerResponse := by
  unfold step fetch
  simp [hv, hr, hq]

/-- A step with `rst` asserted is the reset (R127). -/
theorem step_of_reset {s : State} (hv : s.cfg.valid = true) (hr : s.rstPin = true) : step s = .next s.applyReset := by
  unfold step fetch
  simp [hv, hr]

end Sys2Proof.Machine
end

