-- ==== Sys2Proof/Laws/Text.lean ====
section
/-! SUPPORT. The payload words of a packed text, byte by byte (R59). -/

namespace Sys2Proof

open Machine

/-- A packed text has the number of words asked for (R59). -/
theorem packPayload_length (k : Nat) (text : List Byte) : (packPayload k text).length = k := by
  induction k generalizing text with
  | zero => rfl
  | succ k ih => simp [packPayload, ih]

/-- Byte `j` of a packed word is character `j`, the lowest byte first (R59). -/
theorem packPayloadWord_byte (bs : List Byte) (j : Nat) (hj : j < 8) (hl : bs.length ≤ 8) :
    (packPayloadWord bs).extractLsb' (8 * j) 8 = bs.getD j 0#8 := by
  induction bs generalizing j with
  | nil => simp [packPayloadWord]
  | cons b bs ih =>
    rw [packPayloadWord]
    ext i hi
    rw [BitVec.getElem_extractLsb']
    simp only [BitVec.getLsbD_or, BitVec.getLsbD_shiftLeft, BitVec.getLsbD_setWidth]
    cases j with
    | zero => simp [hi, show i < 64 by omega]
    | succ j =>
      have := congrArg (fun v : Byte => v.getLsbD i) (ih j (by omega) (by simp at hl; omega))
      simp only [BitVec.getLsbD_extractLsb', hi, decide_true, Bool.true_and] at this
      have e1 : 8 * (j + 1) + i - 8 = 8 * j + i := by omega
      have e2 : b.getLsbD (8 * (j+1) + i) = false := BitVec.getLsbD_of_ge _ _ (by omega)
      simp only [e1, this, e2, Bool.and_false, Bool.or_false, show 8 * (j + 1) + i < 64 by omega,
        show ¬(8 * (j + 1) + i < 8) by omega, decide_true, decide_false, Bool.not_false, Bool.true_and]
      simp [BitVec.getLsbD_eq_getElem hi]

/-- Byte `m` of a packed text is character `m`, and 0 past its end (R59). -/
theorem payloadByte_pack (k : Nat) (text : List Byte) (m : Nat) (hm : m < 8 * k) :
    payloadByte (packPayload k text) m = text.getD m 0#8 := by
  induction k generalizing text m with
  | zero => omega
  | succ k ih =>
    by_cases h : m < 8
    · have e : m / 8 = 0 := by omega
      have e2 : m % 8 = m := by omega
      simp only [payloadByte, packPayload, e, e2, List.getD_cons_zero]
      rw [packPayloadWord_byte _ _ h (by simp)]
      simp [List.getD_eq_getElem?_getD, h]
    · have := ih (text.drop 8) (m - 8) (by omega)
      have e : m / 8 = (m - 8) / 8 + 1 := by omega
      have e2 : m % 8 = (m - 8) % 8 := by omega
      simp only [payloadByte, packPayload] at this ⊢
      rw [e, e2, List.getD_cons_succ, this]
      simp [List.getD_eq_getElem?_getD, show 8 + (m - 8) = m by omega]

end Sys2Proof
end

