-- ==== Sys2Proof/Tests/Slice0.lean ====
section
/-! SUPPORT. Tests with expected values from spec/95_test_vectors.md and the rules, and a witness for the hypotheses of every statement. -/

namespace Sys2Proof.Tests

open Sys2Proof Sys2Proof.Machine

/-! The test font (95_test_vectors.md section 1) and small machines. -/

/-- A glyph from its five column bytes. -/
def glyph (a b c d e : Byte) : Glyph := #v[a, b, c, d, e]

/-- Characters 32 to 90; all blank but `!`, `A`, `H`, `I`. -/
def testFont : List Glyph :=
  ((((List.replicate 59 (glyph 0 0 0 0 0)).set 1 (glyph 0x00 0x00 0x5F 0x00 0x00)).set 33
    (glyph 0x7E 0x11 0x11 0x11 0x7E)).set 40 (glyph 0x7F 0x08 0x08 0x08 0x7F)).set 41 (glyph 0x00 0x41 0x7F 0x41 0x00)

/-- A panel with the test font, INIT_SEQ = AE AF, the given COL_LO and XFER_MODE. -/
def panel (width height : Nat) (colLo : Byte) (mode : XferMode) : Config where
  width := width
  height := height
  devAddr := 0x3C#7
  timeout := 1000#32
  font := testFont
  initSeq := [0xAE#8, 0xAF#8]
  colLo := colLo
  colHi := 0x10#8
  xferMode := mode

/-- The default geometry. -/
def big : Config := panel 128 64 0x02#8 .bulk
/-- The small geometry of section 3.5. -/
def small : Config := panel 8 16 0x02#8 .bulk
/-- A strip three characters and six columns wide. -/
def strip : Config := panel 24 8 0x02#8 .bulk

/-- A machine with a clear framebuffer and these words on offer. -/
def clearState (c : Config) (words : List Word64) : State := { State.reset with cfg := c, fb := [], cmdIn := words }

/-- A machine whose every byte is 0xFF. -/
def fullState (c : Config) (words : List Word64) : State :=
  { clearState c words with fb := Memory.ofBytes c.fbSize fun _ => 0xFF#8 }

/-- FB16 of section 3.5. -/
def fb16 : Memory :=
  [ (0, 0xE0#8), (1, 0x10#8), (2, 0x10#8), (3, 0x10#8), (4, 0xE0#8), (8, 0x07#8), (9, 0x01#8), (10, 0x01#8)
  , (11, 0x01#8), (12, 0x07#8), (15, 0x80#8) ]

/-- What a next state shows of a machine. -/
def seen {α : Type} (f : State → α) (s : State) : Option α :=
  match step s with
  | .next t => some (f t)
  | .fault _ => none
  | .refused _ => none

/-- The step ends in a next state with this property. -/
def nextIs (p : State → Bool) (o : Host.Outcome State Fault Refusal) : Bool :=
  match o with
  | .next t => p t
  | .fault _ => false
  | .refused _ => false

/-! WellFormed: an ill-formed term for each check. -/

theorem test_framed_refuses_short_payload : (Instr.str 0 0 9 [0x4141414141414141]).framed = false := by decide
theorem test_framed_refuses_long_payload : (Instr.str 0 0 0 [0]).framed = false := by decide
theorem test_padded_refuses_nonzero_padding : (Instr.str 0 0 1 [0x4241]).padded = false := by decide
theorem test_wellFormed_accepts_hi :
    (Instr.str 2 8 3 [0x0000000000214948]).wellFormed = true ∧ (Instr.str 2 8 9 [0, 0x4100]).wellFormed = false := by
  decide

/-! Decoding (R72): words written out from the encodings. -/

theorem test_decode_clear : decode [0x0100000000000000] = .command .clear [] := by decide
theorem test_decode_setpx : decode [0x020005000A000001] = .command (.setpx 5 10 true) [] := by decide
theorem test_decode_setpx_negative : decode [0x02FFFF0000000001] = .command (.setpx (-1) 0 true) [] := by decide
theorem test_decode_getpx : decode [0x03007F003F000000] = .command (.getpx 127 63) [] := by decide
theorem test_decode_hline : decode [0x0400780009001401] = .command (.hline 120 9 20 true) [] := by decide
theorem test_decode_vline : decode [0x0500050004000A01] = .command (.vline 5 4 10 true) [] := by decide
theorem test_decode_char : decode [0x06000A0003000041] = .command (.char 10 3 65) [] := by decide
theorem test_decode_str :
    decode [0x0700020008000300, 0x0000000000214948, 0x0A00000000000000]
      = .command (.str 2 8 3 [0x0000000000214948]) [0x0A00000000000000] := by decide
theorem test_decode_init : decode [0x0800000000000000] = .command .init [] := by decide
theorem test_decode_flush : decode [0x0900000000000000] = .command .flush [] := by decide
theorem test_decode_status : decode [0x0A00000000000000] = .command .status [] := by decide

/-- R65: opcodes 0x00, 0x0B and 0xFF are not assigned. -/
theorem test_decode_unassigned :
    decode [0x0000000000000000] = .illegal .unassignedOpcode [] ∧ decode [0x0B00000000000000] = .illegal .unassignedOpcode []
      ∧ decode [0xFF00000000000000] = .illegal .unassignedOpcode [] := by decide

/-- R55: a set bit in a must-be-zero field. -/
theorem test_decode_reserved :
    decode [0x0100000000000001] = .illegal .reservedFieldNotZero []
      ∧ decode [0x020005000A000101] = .illegal .reservedFieldNotZero []
      ∧ decode [0x020005000A000003] = .illegal .reservedFieldNotZero []
      ∧ decode [0x03007F003F000001] = .illegal .reservedFieldNotZero []
      ∧ decode [0x0400000000008003] = .illegal .reservedFieldNotZero []
      ∧ decode [0x06000A0003010041] = .illegal .reservedFieldNotZero []
      ∧ decode [0x0700000000010000] = .illegal .reservedFieldNotZero []
      ∧ decode [0x0700000000000001] = .illegal .reservedFieldNotZero [] := by decide

theorem test_textOf_hi : textOf 3 [0x0000000000214948] = [72, 73, 33] := by decide
theorem test_decodeTableWord_str : decodeTableWord 64 0x0700000000000900 = some (.str 0 0 9 [0, 0]) := by decide
theorem test_decodeTableWord_illegal : decodeTableWord 64 0x0B00000000000000 = none := by decide

/-! One step each (95_test_vectors.md section 3). -/

/-- V0: CLEAR from a full buffer. -/
theorem test_clear : seen (fun t => (t.fb, t.rsp)) (fullState small [0x0100000000000000]) = some ([], some 0x00000000) := by
  decide

/-- V1: `SETPX 5, 10, 1`. -/
theorem test_setpx_on : seen (·.fb) (clearState big [0x020005000A000001]) = some [(133, 0x04)] := by decide

/-- Section 3.2, two pixels of one byte, and V7: out of bounds changes nothing and answers OK. -/
theorem test_setpx_off_and_out :
    seen (·.fb) { clearState big [0x0200050008000000] with fb := [(133, 0x81)] } = some [(133, 0x80)]
      ∧ seen (fun t => (t.fb, t.rsp)) (clearState big [0x02FFFF0000000001]) = some ([], some 0x00000000) := by decide

/-- V2 and V3. -/
theorem test_getpx :
    seen (·.rsp) { clearState big [0x030005000A000000] with fb := [(133, 0x04)] } = some (some 0x00000001)
      ∧ seen (·.rsp) { clearState big [0x030005000B000000] with fb := [(133, 0x04)] } = some (some 0x00000000) := by decide

/-- V12: out of bounds reads as off, on a full buffer. -/
theorem test_getpx_out : seen (·.rsp) (fullState small [0x0300080000000000]) = some (some 0x00000000) := by decide

/-- H2: clipped at the right edge. -/
theorem test_hline_clips : seen (·.fb) (clearState big [0x0400780009001401])
    = some [(248, 2), (249, 2), (250, 2), (251, 2), (252, 2), (253, 2), (254, 2), (255, 2)] := by decide

/-- H3 and H4: a negative X, and length 0. -/
theorem test_hline_negative : seen (·.fb) (clearState big [0x04FFFD0000000501]) = some [(0, 1), (1, 1)]
    ∧ seen (·.fb) (clearState big [0x0400000000000001]) = some [] := by decide

/-- L1: a line over two pages. -/
theorem test_vline_pages : seen (·.fb) (clearState big [0x0500050004000A01]) = some [(5, 0xF0), (133, 0x3F)] := by decide

/-- L4: a negative Y. -/
theorem test_vline_negative : seen (·.fb) (clearState big [0x050000FFFC000801]) = some [(0, 0x0F)] := by decide

/-- G3: a character over two pages. -/
theorem test_char_unaligned : seen (·.fb) (clearState big [0x06000A0003000041])
    = some [(10, 0xF0), (11, 0x88), (12, 0x88), (13, 0x88), (14, 0xF0), (138, 0x03), (142, 0x03)] := by decide

/-- G2 and G7: the cell is opaque; a code without a glyph draws nothing. -/
theorem test_char_opaque :
    seen (fun t => t.fb.slice 0 7) (fullState small [0x0600000000000041]) = some [0x7E, 0x11, 0x11, 0x11, 0x7E, 0x00, 0xFF]
      ∧ seen (·.fb) (clearState small [0x060000000000005B]) = some [] := by decide

/-- S2: "HI!". -/
theorem test_str_hi : seen (·.fb) (clearState big [0x0700020008000300, 0x0000000000214948])
    = some [ (130, 0x7F), (131, 0x08), (132, 0x08), (133, 0x08), (134, 0x7F), (137, 0x41), (138, 0x7F), (139, 0x41)
           , (144, 0x5F) ] := by decide +kernel

/-- S6: a character without a glyph keeps its place and its cell. -/
theorem test_str_gap : seen (fun t => t.fb.slice 0 19) (fullState strip [0x0700000000000300, 0x0000000000416141])
    = some [ 0x7E, 0x11, 0x11, 0x11, 0x7E, 0x00, 0xFF, 0xFF, 0xFF, 0xFF, 0xFF, 0xFF, 0x7E, 0x11, 0x11, 0x11, 0x7E, 0x00
           , 0xFF ] := by decide +kernel

/-- I1: both bytes sent, in order. -/
theorem test_init :
    seen (fun t => (t.txOut, t.dcs, t.rsp))
        { clearState small [0x0800000000000000] with trIn := [.result trOk, .result trOk] }
      = some ([.cmd 0xAE, .cmd 0xAF], .active, some 0x00000000) := by decide

/-- R100, R102, as I2: failures are counted and INIT still ends ACTIVE; the reserved code is a failure (R69). -/
theorem test_init_fails :
    seen (fun t => (t.txOut, t.dcs, t.busErr, t.rsp))
        { clearState small [0x0800000000000000] with trIn := [.result trFail, .result 3] }
      = some ([.cmd 0xAE, .cmd 0xAF], .active, true, some 0x20000002) := by decide

/-- F1 and F3: the eight requests, requests 1 and 7 TIMEOUT. -/
theorem test_flush_bulk :
    seen (fun t => (t.txOut, t.fb, t.busErr, t.rsp))
        { clearState small [0x0900000000000000] with
          fb := fb16
          trIn := [ .result trOk, .result trTimeout, .result trOk, .result trOk, .result trOk, .result trOk, .result trOk
                  , .result trTimeout ] }
      = some
          ( [ .cmd 0xB0, .cmd 0x02, .cmd 0x10, .data [0xE0, 0x10, 0x10, 0x10, 0xE0, 0x00, 0x00, 0x00]
            , .cmd 0xB1, .cmd 0x02, .cmd 0x10, .data [0x07, 0x01, 0x01, 0x01, 0x07, 0x00, 0x00, 0x80] ]
          , fb16, true, some 0x20000002 ) := by decide

/-- F2: COL_LO = 01, SINGLE, 22 requests. -/
theorem test_flush_single :
    seen (·.txOut) { clearState (panel 8 16 0x01#8 .single) [0x0900000000000000] with fb := fb16 }
      = some
          [ .cmd 0xB0, .cmd 0x01, .cmd 0x10, .data [0xE0], .data [0x10], .data [0x10], .data [0x10], .data [0xE0]
          , .data [0x00], .data [0x00], .data [0x00]
          , .cmd 0xB1, .cmd 0x01, .cmd 0x10, .data [0x07], .data [0x01], .data [0x01], .data [0x01], .data [0x07]
          , .data [0x00], .data [0x00], .data [0x80] ] := by decide

/-- X2: STATUS with all three bits set; and R109 with ILL alone. -/
theorem test_status :
    seen (·.rsp) { clearState small [0x0A00000000000000] with dcs := .active, busErr := true, ill := true } = some (some 0x00000007)
      ∧ seen (·.rsp) { clearState small [0x0A00000000000000] with ill := true } = some (some 0x00000004) := by decide

/-- R115: an illegal word answers (ILLEGAL, 0) and sets ILL; R60: an illegal STR header takes no payload. -/
theorem test_illegal_word :
    seen (fun t => (t.fb, t.ill, t.rsp)) (clearState small [0x0B00000000000000]) = some ([], true, some 0x10000000)
      ∧ seen (·.cmdIn) (clearState small [0x0700000000000101, 0x0000000000000041]) = some [0x0000000000000041] := by decide

/-- C9, R60, R90: bad padding takes the payload, draws nothing, answers (ILLEGAL, 0). -/
theorem test_bad_padding :
    seen (fun t => (t.fb, t.ill, t.rsp)) (clearState small [0x0700000000000100, 0x0000000000004141])
        = some ([], true, some 0x10000000)
      ∧ seen (·.cmdIn) (clearState small [0x0700000000000100, 0x0000000000004141, 0x0A00000000000000])
        = some [0x0A00000000000000] := by decide

/-- R70: a response the host does not take holds the next command; taken, it lets it run. -/
theorem test_response_handshake :
    seen (fun t => (t.rsp, t.rspOut, t.cmdIn))
        { clearState small [0x0A00000000000000] with rsp := some 0x00000001, rspReady := false }
      = some (some 0x00000001, [], [0x0A00000000000000])
      ∧ seen (fun t => (t.rsp, t.rspOut, t.cmdIn))
          { clearState small [0x0A00000000000000] with rsp := some 0x00000001 }
        = some (none, [0x00000001], [0x0A00000000000000]) := by decide

/-- R128: CLEAR, accepted and met by `rst`, gives no response, and the status bits are those of reset. -/
theorem test_abandoned_clear :
    seen (fun t => (t.rsp, t.rspOut, t.cmdIn, t.dcs))
        { clearState small [0x0100000000000000, 0x0A00000000000000] with dcs := .active, rstInCmd := true }
      = some (none, [], [0x0A00000000000000], .uninit) := by decide

/-- R53, R90: a header and one of two payload words have loaded the operand registers and eight characters. -/
theorem test_collect_loads :
    seen (fun t => (t.x, t.len, t.txt.take 9)) (clearState small [0x0700050004000900, 0x4847464544434241])
      = some (5, 9, [0x41, 0x42, 0x43, 0x44, 0x45, 0x46, 0x47, 0x48, 0x00]) := by decide

/-! Witnesses: for every statement with hypotheses, a state and operands that meet all of them, clause by clause. -/

/-- Between two commands, clear framebuffer, nothing on offer. -/
def quiet : State := clearState small []

/-- A response on offer and a command behind it. -/
def answered : State := { clearState small [0x0A00000000000000] with rsp := some 0x00000001 }

/-- `quiet` with these events ahead on the transport. -/
def withTransport (events : List TrEvent) : State := { quiet with trIn := events }

/-- R12 at the bounds of R7 to R10: in range, and one past. -/
theorem witness_StepRefusesExactlyBadConfigurations :
    (panel 1 8 1 .bulk).valid = true ∧ (panel 32767 128 2 .single).valid = true
      ∧ (panel 0 8 1 .bulk).valid = false ∧ (panel 32768 8 1 .bulk).valid = false ∧ (panel 8 0 1 .bulk).valid = false
      ∧ (panel 8 136 1 .bulk).valid = false ∧ (panel 8 12 1 .bulk).valid = false ∧ (panel 8 8 3 .bulk).valid = false
      ∧ { small with font := [] }.valid = false ∧ { small with font := List.replicate 97 (glyph 0 0 0 0 0) }.valid = false
      ∧ { small with font := List.replicate 96 (glyph 0 0 0 0 0) }.valid = true
      ∧ { small with initSeq := [] }.valid = false ∧ { small with initSeq := List.replicate 256 0 }.valid = false
      ∧ { small with initSeq := List.replicate 255 0 }.valid = true := by decide +kernel

/-- One state for each clause. -/
theorem witness_StepRunsTheDecodedCommand :
    small.valid = true ∧ { quiet with rstPin := true }.rstPin = true
      ∧ quiet.rstPin = false ∧ quiet.rsp = none ∧ quiet.pending = [] ∧ quiet.cmdIn = [] ∧ quiet.rstInCmd = false
      ∧ answered.rsp = some 0x00000001 ∧ answered.rspReady = true ∧ { answered with rspReady := false }.rspReady = false
      ∧ { quiet with rstInCmd := true }.rstInCmd = true
      ∧ decode (clearState small [0x0A00000000000000, 1]).words = .command .status [1]
      ∧ decode (clearState small [0x0B00000000000000, 1]).words = .illegal .unassignedOpcode [1]
      ∧ decode (clearState small [0x0700000000000900, 1]).words = .incomplete := by decide

/-- INIT changes DCS, a failing FLUSH changes BUSERR, an STR with bad padding changes ILL. -/
theorem witness_StatusBitsHaveTheirWriters :
    nextIs (fun t => t.dcs != quiet.dcs && t.resets == quiet.resets) (exec .init quiet) = true
      ∧ nextIs (fun t => t.busErr != quiet.busErr && t.resets == quiet.resets)
          (exec .flush (withTransport (.result trFail :: List.replicate 7 (.result trOk)))) = true
      ∧ nextIs (fun t => t.ill != quiet.ill && t.resets == quiet.resets) (exec (.str 0 0 1 [0x4141]) quiet) = true := by
  decide

theorem witness_StatusBitsInfluenceOnlyStatus :
    Instr.flush ≠ .status
      ∧ nextIs (fun t => t.busErr)
          (exec .flush (withTransport (.result trTimeout :: List.replicate 7 (.result trOk)))) = true := by decide

theorem witness_NoStepChangesTheConfiguration : ∃ t, step quiet = .next t := ⟨_, rfl⟩

theorem witness_StepKeepsTheInvariant :
    (clearState small [0x020007000F000001]).Inv ∧ ∃ t, step (clearState small [0x020007000F000001]) = .next t :=
  ⟨by decide +kernel, _, rfl⟩

/-- All three bits set before a step that is no reset. -/
theorem witness_StatusBitsAreMonotone :
    ∃ t, step { clearState small [0x0100000000000000] with dcs := .active, busErr := true, ill := true } = .next t
      ∧ t.resets = 0 ∧ t.dcs = .active ∧ t.busErr = true ∧ t.ill = true := ⟨_, rfl, by decide⟩

theorem witness_PixelIsBitOfByte :
    inBounds big 0 0 = true ∧ inBounds big 127 63 = true ∧ inBounds big 128 0 = false ∧ inBounds big 0 64 = false
      ∧ inBounds big (-1) 0 = false ∧ inBounds big 0 (-1) = false
      ∧ byteIndex big 127 63 = 1023 ∧ bitNo 63 = 7 ∧ byteIndex big 100 47 = 740 := by decide

theorem witness_PixelAddressesAreOneToOne :
    big.valid = true ∧ 1023 < big.fbSize ∧ ¬1024 < big.fbSize ∧ inBounds big 5 8 = true ∧ inBounds big 5 15 = true
      ∧ byteIndex big 5 8 = byteIndex big 5 15
      ∧ pixelOf big 0 0 = (0, 0) ∧ pixelOf big 1023 7 = (127, 63) ∧ pixelOf big 133 2 = (5, 10) := by decide

theorem witness_DecodeAndEncodeAgree :
    (Instr.str 0 0 9 [1, 2]).framed = true ∧ (Instr.str 0 0 0 []).framed = true
      ∧ decode (encode (.str 0 0 9 [1, 2]) ++ [3]) = .command (.str 0 0 9 [1, 2]) [3] := by decide

/-- A word that matches a row, and illegal words of both kinds. -/
theorem witness_WordsMatchAtMostOneRow :
    (∃ r ∈ opcodeTable, 0x020005000A000001 &&& r.mask = r.value)
      ∧ decode [0x0B00000000000000, 1] = .illegal .unassignedOpcode [1]
      ∧ decode [0x0900010000000000, 1] = .illegal .reservedFieldNotZero [1] := by decide

/-- The empty text and the longest; the last byte of a payload. -/
theorem witness_StrCarriesItsText :
    ([] : List Byte).length ≤ 255 ∧ (List.replicate 255 (65 : Byte)).length ≤ 255
      ∧ ([1, 0x4200000000000000] : List Word64)[1]? = some 0x4200000000000000 ∧ 7 < 8 ∧ 8 * 1 + 7 < (16 : Byte).toNat := by
  decide +kernel

theorem witness_CommandsTakeTheirWords :
    ∃ t u, step (clearState small [0x0700000000000100, 0x0000000000004141, 5]) = .next t ∧ t.resets = 0 ∧ t.cmdIn = [5]
      ∧ step (clearState small [0x0700000000000101, 0x0000000000000041]) = .next u ∧ u.resets = 0 ∧ u.cmdIn = [0x41] :=
  ⟨_, _, rfl, rfl, by decide, rfl, rfl, by decide⟩

/-- A header and one of its two payload words, half of it taken already. -/
theorem witness_CollectingLosesNothing :
    small.valid = true ∧ quiet.rstPin = false ∧ quiet.rsp = none
      ∧ ({ quiet with pending := [0x0700000000000900], cmdIn := [0x4141414141414141] } : State).words
          = [0x0700000000000900, 0x4141414141414141]
      ∧ decode [0x0700000000000900, 0x4141414141414141] = .incomplete ∧ 7 < 8 * [(0x4141414141414141 : Word64)].length := by
  decide

theorem witness_ExactlyOneResponsePerCommand :
    decode (clearState small [0x0A00000000000000]).words = .command .status [] ∧ decode quiet.words = .noWord
      ∧ decode (clearState small [0x0700000000000100]).words = .incomplete
      ∧ ∃ t u v, step (clearState small [0x0A00000000000000]) = .next t ∧ t.resets = 0 ∧ step quiet = .next u ∧ u.resets = 0
        ∧ step (clearState small [0x0700000000000100]) = .next v ∧ v.resets = 0 :=
  ⟨by decide, by decide, by decide, _, _, _, rfl, rfl, rfl, rfl, rfl, rfl⟩

/-- The host ready, and not ready. -/
theorem witness_ResponseIsHeldUntilTaken :
    answered.cfg.valid = true ∧ answered.rstPin = false ∧ answered.rsp = some 0x00000001 ∧ answered.rspReady = true
      ∧ { answered with rspReady := false }.rspReady = false := by decide

/-- A word taken, a response taken, one held, one dropped by reset. -/
theorem witness_WordsPassOnlyByHandshake :
    seen (·.cmdIn) (clearState small [0x0A00000000000000]) = some [] ∧ seen (·.rspOut) answered = some [0x00000001]
      ∧ seen (·.rsp) { answered with rspReady := false } = some (some 0x00000001)
      ∧ seen (fun t => (t.rsp, t.resets)) { answered with rstPin := true } = some (none, 1) := by decide

theorem witness_TransfersCarryThePayload :
    (Request.cmd 0xB0).payload ≠ [] ∧ (Request.data [1, 2]).payload ≠ []
      ∧ txBeats small (.data [1, 2]) = [⟨1, 1, false, 0x3C, 1000⟩, ⟨1, 2, true, 0x3C, 1000⟩] := by decide

/-- A framebuffer in canonical form, a pixel in range and one out of range. -/
theorem witness_SetPixelChangesOneBit :
    small.valid = true ∧ Memory.wf small.fbSize fb16 = true ∧ inBounds small 7 15 = true ∧ inBounds small 8 15 = false := by
  decide

theorem witness_PixelLaws :
    small.valid = true ∧ Memory.wf small.fbSize fb16 = true ∧ inBounds small 0 0 = true ∧ inBounds small 7 15 = true
      ∧ inBounds small 0 16 = false
      ∧ ∃ t u v, exec .clear quiet = .next t ∧ exec (.setpx 7 15 true) quiet = .next u ∧ exec (.getpx 7 15) quiet = .next v :=
  ⟨by decide, by decide, by decide, by decide, by decide, _, _, _, rfl, rfl, rfl⟩

theorem witness_ClearIsTheLoopOfWrites : Memory.wf small.fbSize fb16 = true := by decide

/-- SETPX in range and out of range, on a framebuffer in canonical form. -/
theorem witness_SetpxSetsItsPixel :
    { quiet with fb := fb16 }.cfg.valid = true ∧ Memory.wf small.fbSize fb16 = true
      ∧ inBounds small (coord 7) (coord 15) = true ∧ inBounds small (coord 0xFFFF) (coord 0) = false := by decide

/-- HLINE of length 0, and one that crosses the right edge. -/
theorem witness_HlineDrawsItsPixels :
    quiet.cfg.valid = true ∧ quiet.fb.wf quiet.cfg.fbSize = true
      ∧ nextIs (fun t => t.fb == []) (exec (.hline 0 0 0 true) quiet) = true
      ∧ nextIs (fun t => t.fb == [(6, 1), (7, 1)]) (exec (.hline 6 0 5 true) quiet) = true := by decide

/-- VLINE of length 0, and one that crosses the bottom edge. -/
theorem witness_VlineDrawsItsPixels :
    quiet.cfg.valid = true ∧ quiet.fb.wf quiet.cfg.fbSize = true
      ∧ nextIs (fun t => t.fb == []) (exec (.vline 0 0 0 true) quiet) = true
      ∧ nextIs (fun t => t.fb == [(8, 0xC0)]) (exec (.vline 0 14 5 true) quiet) = true := by decide

theorem witness_FullWidthLineFillsRowZero : quiet.cfg.valid = true ∧ quiet.fb = [] := by decide

/-- The first code with a glyph, the last, and those beside them; a code from 128 on. -/
theorem witness_GlyphGuard :
    small.valid = true ∧ (glyphOf small 31).isSome = false ∧ (glyphOf small 32).isSome = true
      ∧ (glyphOf small 90).isSome = true ∧ (glyphOf small 91).isSome = false
      ∧ glyphOf small 65 = some (glyph 0x7E 0x11 0x11 0x11 0x7E) ∧ 128 ≤ (128 : Byte).toNat := by decide

/-- A cell cut by the bottom and the right edge (rule R89 on a panel of 8 by 16): columns 0 and 1, rows 0 to 3 of `A`. -/
theorem witness_CharDrawsItsCell :
    quiet.cfg.valid = true ∧ quiet.fb.wf quiet.cfg.fbSize = true
      ∧ nextIs (fun t => t.fb == [(14, 0xE0), (15, 0x10)]) (exec (.char 6 12 65) quiet) = true := by decide

theorem witness_StrDrawsItsText :
    quiet.cfg.valid = true ∧ quiet.fb.wf quiet.cfg.fbSize = true ∧ badPadding 3 [0x0000000000214948] = false
      ∧ badPadding 0 [] = false := by decide

/-- The last X that fits, 32761 + 6 = 32767. -/
theorem witness_StrIsItsCharsInOrder :
    ([65, 65] : List Byte).length ≤ 255 ∧ (∀ k : Nat, k < 2 → coord 32761 + 6 * k ≤ 32767)
      ∧ quiet.cfg.valid = true ∧ 32767 < coord 32762 + 6 * (1 : Nat) := by decide

theorem witness_StrOfAShowsItsGlyph :
    quiet.cfg.valid = true ∧ quiet.fb.wf quiet.cfg.fbSize = true
      ∧ quiet.cfg.font[33]? = some (glyph 0x7E 0x11 0x11 0x11 0x7E) ∧ inBounds quiet.cfg (coord 2 + 5) (coord 8 + 7) = true := by
  decide

/-- CHAR, STR, and STR with bad padding. -/
theorem witness_TextCommandsSendNothing :
    ∃ t u v, exec (.char 0 0 65) quiet = .next t ∧ exec (.str 0 0 1 [0x41]) quiet = .next u ∧ badPadding 1 [0x41] = false
      ∧ exec (.str 0 0 1 [0x4141]) quiet = .next v := ⟨_, _, _, rfl, rfl, by decide, rfl⟩

theorem witness_AlignedCharCopiesColumns :
    quiet.cfg.valid = true ∧ quiet.fb.wf quiet.cfg.fbSize = true ∧ coord 8 % 8 = 0 ∧ 0 ≤ coord 8 ∧ coord 8 < quiet.cfg.height
      ∧ glyphOf quiet.cfg 65 = some (glyph 0x7E 0x11 0x11 0x11 0x7E) ∧ inBounds quiet.cfg (coord 2 + 5) (coord 8) = true := by
  decide

theorem witness_RequestsDoNotDependOnResults :
    ∃ t, exec .flush (withTransport [.result trFail]) = .next t ∧ t.resets = 0 := ⟨_, rfl, rfl⟩

/-- Free answers, and listed ones with a failure. -/
theorem witness_InitSendsTheSequence :
    small.valid = true ∧ quiet.transportAnswers small.initSeq.length = true
      ∧ (withTransport [.result trOk, .result trFail, .silent]).transportAnswers small.initSeq.length = true
      ∧ (withTransport [.result trOk, .result trFail, .silent]).failures small.initSeq.length = 1 := by decide

theorem witness_FlushSendsThePages :
    small.valid = true ∧ quiet.transportAnswers (flushRequests small quiet.fb).length = true
      ∧ (withTransport [.result trTimeout]).transportAnswers (flushRequests small quiet.fb).length = true := by decide

/-- Both transfer modes, and the last page and column. -/
theorem witness_FlushRequestsOneByOne :
    (panel 8 16 1 .bulk).valid = true ∧ (panel 8 16 1 .bulk).xferMode = .bulk ∧ (panel 8 16 1 .single).valid = true
      ∧ (panel 8 16 1 .single).xferMode = .single ∧ 1 < small.pages ∧ ¬2 < small.pages ∧ 7 < small.width := by decide

/-- The tallest panel: page 15. -/
theorem witness_PageCommandBytes :
    (panel 8 128 2 .bulk).valid = true ∧ 15 < (panel 8 128 2 .bulk).pages ∧ pageCommand 15 = 0xBF := by decide

theorem witness_FlushRoundTrip : small.valid = true ∧ 1 < small.pages ∧ 7 < small.width ∧ 7 < 8 := by decide

/-- Two flushes of one framebuffer from different states. -/
theorem witness_FlushIsAPureRead :
    ∃ t t', exec .flush quiet = .next t ∧ t.resets = 0
      ∧ exec .flush { withTransport [.result trFail] with dcs := .active } = .next t' ∧ t'.resets = 0 :=
  ⟨_, _, rfl, rfl, rfl, rfl⟩

theorem witness_TransferModesAgree : small.valid = true := by decide

/-- An illegal word, and a legal header whose payload has bad padding. -/
theorem witness_IllegalCommandsDoNothing :
    small.valid = true ∧ quiet.rstPin = false ∧ quiet.rsp = none ∧ quiet.rstInCmd = false
      ∧ decode (clearState small [0x0000000000000000]).words = .illegal .unassignedOpcode []
      ∧ decode (clearState small [0x0700000000000100, 0x0000000000004141]).words = .command (.str 0 0 1 [0x4141]) []
      ∧ badPadding 1 [0x4141] = true := by decide

/-- Bad padding in the first byte after the text, and in the last byte of the word. -/
theorem witness_StrWithBadPaddingIsIllegal :
    badPadding 1 [0x0000000000000141] = true ∧ badPadding 1 [0x0100000000000041] = true := by decide

/-- INIT and FLUSH on a transport that stays silent after one result. -/
theorem witness_OnlyASilentTransportStopsACommand :
    exec .init (withTransport [.result trOk, .silent]) = .fault .transportSilent
      ∧ exec .flush (withTransport [.result trOk, .silent]) = .fault .transportSilent
      ∧ (withTransport [.result trOk, .silent]).trIn = [trOk].map TrEvent.result ++ .silent :: []
      ∧ [trOk].length < (requestsOf .init quiet).length ∧ [trOk].length < (requestsOf .flush quiet).length :=
  ⟨rfl, rfl, rfl, by decide, by decide⟩

theorem witness_RstTakesTheResetState :
    { quiet with rstPin := true }.cfg.valid = true ∧ { quiet with rstPin := true }.rstPin = true := by decide

/-- A reset while INIT waits for its second result. -/
theorem witness_ResetAbandonsACommand :
    ∃ t, exec .init (withTransport [.result trOk, .rst]) = .next t ∧ t.resets = 1 ∧ t.rsp = none ∧ t.rspOut = []
      ∧ t.txOut = [.cmd 0xAE, .cmd 0xAF] := ⟨_, rfl, rfl, rfl, rfl, rfl⟩

/-- A drawing command, and an illegal word. -/
theorem witness_ResetAbandonsAnyCommand :
    small.valid = true ∧ quiet.rstPin = false ∧ quiet.rsp = none ∧ { quiet with rstInCmd := true }.rstInCmd = true
      ∧ decode [0x020005000A000001, 7] = .command (.setpx 5 10 true) [7]
      ∧ decode [0x0B00000000000000, 7] = .illegal .unassignedOpcode [7] := by decide

theorem witness_EveryCommandTerminates :
    quiet.transportAnswers (requestsOf .flush quiet).length = true ∧ quiet.transportAnswers (requestsOf .clear quiet).length = true := by
  decide

end Sys2Proof.Tests
end

section
/-! SUPPORT. Configuration and execution model (00_scope.md): when a step is refused, and how each kind of step goes. -/

namespace Sys2Proof.Machine

/-! Refusal. -/

/-- A valid configuration is one that meets R7, R8, R9 and R10 (R12). -/
theorem Config.valid_iff {c : Config} :
    c.valid = true ↔
      1 ≤ c.width ∧ c.width ≤ 32767 ∧ 8 ≤ c.height ∧ c.height ≤ 128 ∧ c.height % 8 = 0
        ∧ 1 ≤ c.font.length ∧ c.font.length ≤ 96
        ∧ 1 ≤ c.initSeq.length ∧ c.initSeq.length ≤ 255
        ∧ (c.colLo = 0x01#8 ∨ c.colLo = 0x02#8) := by
  simp only [Config.valid, Config.geometryOk, Bool.and_eq_true, decide_eq_true_eq, and_assoc]

/-- No command is refused: every row of R54 has its meaning. -/
theorem exec_not_refused {i : Instr} {s : State} {r : Refusal} : exec i s ≠ .refused r := by
  intro h
  cases i with
  | init => exact runTransfer_not_refused h
  | flush => exact runTransfer_not_refused h
  | _ => cases h

/-- A step with a bad configuration is the refusal of R12, before anything else (log entry 13). -/
theorem step_of_invalid {s : State} (hv : s.cfg.valid = false) : step s = .refused .configurationError := by
  simp [step, fetch, hv]

/-- A step with a valid configuration is not refused. -/
theorem step_not_refused {s : State} (hv : s.cfg.valid = true) {r : Refusal} : step s ≠ .refused r := by
  cases hr : s.rstPin with
  | true => simp [step_of_reset hv hr]
  | false =>
    cases hq : s.rsp with
    | some w => simp [step_of_response hv hr (by simp [hq])]
    | none =>
      rw [step_of_decode hv hr hq]
      cases decode s.words with
      | noWord => simp
      | incomplete => simp
      | illegal why rest => simp
      | command i rest => cases s.rstInCmd <;> simp [exec_not_refused]

/-- A step is refused exactly for a bad configuration (R12). -/
theorem step_refused_iff {s : State} : (∃ r, step s = .refused r) ↔ s.cfg.valid = false := by
  constructor
  · rintro ⟨r, h⟩
    exact Bool.eq_false_iff.mpr fun hv => step_not_refused hv h
  · exact fun hv => ⟨_, step_of_invalid hv⟩

/-- Settles O1: the configuration is all that `step` refuses, and `Config.valid` is R7 to R10. -/
theorem stepRefusesExactlyBadConfigurations : Obligations.StepRefusesExactlyBadConfigurations := by
  intro s
  rw [step_refused_iff, ← Config.valid_iff, Bool.not_eq_true]

/-! What a step is, by what the channels hold. -/

/-- A response on offer goes to the host's history when the host is ready, and otherwise stays (R70). -/
theorem offerResponse_of_some {s : State} {w : Word32} (hq : s.rsp = some w) :
    s.offerResponse = if s.rspReady = true then { s with rsp := none, rspOut := s.rspOut ++ [w] } else s := by
  simp [State.offerResponse, State.takeResponse, hq]

section
variable {s : State} (hv : s.cfg.valid = true) (hr : s.rstPin = false) (hq : s.rsp = none)
include hv hr hq

/-- A step with no word on offer and none half taken leaves the state as it is (R126, R127). -/
theorem step_of_noWord (hd : decode s.words = .noWord) : step s = .next s := by
  rw [step_of_decode hv hr hq, hd]

/-- A step on an unfinished payload collects it (R61, R140). -/
theorem step_of_incomplete (hd : decode s.words = .incomplete) : step s = .next s.collect := by
  rw [step_of_decode hv hr hq, hd]

/-- A step on an illegal word takes it alone and rejects it (R60, R65). -/
theorem step_of_illegal {why : Illegality} {rest : List Word64} (hd : decode s.words = .illegal why rest) :
    step s = .next (s.consume rest).rejectWord := by
  rw [step_of_decode hv hr hq, hd]

/-- A step on a complete command runs it on the state without its words, or abandons it (R14, R60, R128). -/
theorem step_of_command {i : Instr} {rest : List Word64} (hd : decode s.words = .command i rest) :
    step s = if s.rstInCmd = true then .next (s.consume rest).abandon else exec i (s.consume rest) := by
  rw [step_of_decode hv hr hq, hd]

end

/-- Settles O2, each clause by the lemma about its kind of step. -/
theorem stepRunsTheDecodedCommand : Obligations.StepRunsTheDecodedCommand := by
  intro s hv
  refine ⟨step_of_reset hv, fun hr w hq => ?response, fun hr hq => ⟨?idle, ?command, ?illegal, ?incomplete⟩⟩
  case response => rw [step_of_response hv hr (by simp [hq]), offerResponse_of_some hq]
  case idle =>
    intro hp hc
    exact step_of_noWord hv hr hq (by simp [State.words, hp, hc, decode])
  case command => exact fun i rest hd => step_of_command hv hr hq hd
  case illegal => exact fun why rest hd => step_of_illegal hv hr hq hd
  case incomplete =>
    intro w ws hw hd
    have hwords : s.words = w :: ws := hw
    rw [step_of_incomplete hv hr hq (by rw [hwords, hd]), collect_eq hwords]

end Sys2Proof.Machine
end

section
/-! SUPPORT. The state invariant (R32): what each update of State keeps of it, and that every step keeps it. -/

namespace Sys2Proof.Machine

/-! The part of the invariant that a command must keep while it runs. -/

/-- `State.Inv` without its two clauses about the command and response channels (`inv_iff`). -/
structure State.CoreOk (s : State) : Prop where
  valid : s.cfg.valid = true
  fb : s.fb.wf s.cfg.fbSize = true
  txt : s.txt.length = 255
  idle : s.outstanding = none
  counters : s.countersOk

theorem inv_iff {s : State} : s.Inv ↔ s.CoreOk ∧ s.pendingOk ∧ s.responseOk := by
  constructor
  · rintro ⟨valid, fb, txt, idle, pending, counters, response⟩
    exact ⟨⟨valid, fb, txt, idle, counters⟩, pending, response⟩
  · rintro ⟨⟨valid, fb, txt, idle, counters⟩, pending, response⟩
    exact ⟨valid, fb, txt, idle, pending, counters, response⟩

theorem freeCounter_lt (s : State) (which : Nat) {range : Nat} (h : 0 < range) : s.freeCounter which range < range :=
  Nat.mod_lt _ h

theorem freeCounter_le (s : State) (which n : Nat) : s.freeCounter which (n + 1) ≤ n :=
  Nat.le_of_lt_succ (freeCounter_lt s which n.succ_pos)

theorem Config.pages_pos {c : Config} (hc : c.valid = true) : 0 < c.pages := by
  have := Config.geometry hc
  have := Config.height_eq hc
  omega

theorem Config.width_pos {c : Config} (hc : c.valid = true) : 0 < c.width := by
  have := Config.geometry hc
  omega

namespace State.CoreOk

section
variable {s : State} (hs : s.CoreOk)
include hs

theorem loadOperands (x y len : Half) (arg : Byte) : (s.loadOperands x y len arg).CoreOk := { hs with }

theorem loadText {text : List Byte} (h : text.length ≤ 255) : (s.loadText text).CoreOk :=
  { hs with
    txt := by
      have := hs.txt
      simp only [loadText_txt, List.length_append, List.length_drop]
      omega }

theorem withFb {m : Memory} (h : m.wf s.cfg.fbSize = true) : { s with fb := m }.CoreOk := { hs with fb := h }

theorem respond (code : RspCode) (data : BitVec 16) : (s.respond code data).CoreOk := { hs with }

theorem takeResponse : s.takeResponse.CoreOk := { hs with }

theorem consume (rest : List Word64) : (s.consume rest).CoreOk := { hs with }

theorem setActive : s.setActive.CoreOk := { hs with }

theorem raiseIllegal : s.raiseIllegal.CoreOk := { hs with }

theorem finishTransfer : s.finishTransfer.CoreOk := { hs with }

theorem leaveK : s.leaveK.CoreOk := by
  obtain ⟨-, hrest⟩ := hs.counters
  exact { hs with counters := ⟨freeCounter_le s 0 _, hrest⟩ }

theorem leaveIJ : s.leaveIJ.CoreOk := by
  obtain ⟨hk, hS, -, -, hrest⟩ := hs.counters
  exact { hs with counters := ⟨hk, hS, freeCounter_le s 2 _, freeCounter_le s 3 _, hrest⟩ }

theorem leaveSIJ : s.leaveSIJ.CoreOk := by
  obtain ⟨hk, -, -, -, hrest⟩ := hs.counters
  exact { hs with counters := ⟨hk, freeCounter_le s 1 _, freeCounter_le s 2 _, freeCounter_le s 3 _, hrest⟩ }

theorem leavePC : s.leavePC.CoreOk := by
  obtain ⟨hk, hS, hi, hj, -, -, hf⟩ := hs.counters
  exact { hs with counters :=
    ⟨hk, hS, hi, hj, freeCounter_lt s 4 (Config.pages_pos hs.valid), freeCounter_lt s 5 (Config.width_pos hs.valid), hf⟩ }

theorem afterTransport (sent : List Request) (l : List TrEvent) (d : Nat) {f : Nat} (h : f ≤ 65535) :
    (s.afterTransport sent none l d f).CoreOk := by
  obtain ⟨hk, hS, hi, hj, hp, hc, -⟩ := hs.counters
  exact { hs with idle := rfl, counters := ⟨hk, hS, hi, hj, hp, hc, h⟩ }

end

end State.CoreOk

theorem applyReset_coreOk {s : State} (hv : s.cfg.valid = true) : s.applyReset.CoreOk where
  valid := hv
  fb := Memory.ofBytes_wf _ _
  txt := length_resetTxt
  idle := rfl
  counters := ⟨Nat.zero_le _, Nat.zero_le _, Nat.zero_le _, Nat.zero_le _, Config.pages_pos hv, Config.width_pos hv,
    Nat.zero_le _⟩

/-- A reset state meets the invariant whatever the state before it was (R31). -/
theorem applyReset_inv {s : State} (hv : s.cfg.valid = true) : s.applyReset.Inv :=
  inv_iff.2 ⟨applyReset_coreOk hv, .inl rfl, rfl⟩

theorem abandon_inv {s : State} (hv : s.cfg.valid = true) : s.abandon.Inv := applyReset_inv (s := s) hv

/-! What a command keeps. -/

theorem length_textOf (n : Byte) (payload : List Word64) : (textOf n payload).length = n.toNat := by simp [textOf]

theorem length_textOf_le (n : Byte) (payload : List Word64) : (textOf n payload).length ≤ 255 := by
  rw [length_textOf]
  exact Nat.le_of_lt_succ n.isLt

theorem length_receivedText_le (n : Byte) (payload : List Word64) : (receivedText n payload).length ≤ 255 :=
  (List.length_take_le' _ _).trans (length_textOf_le n payload)

theorem strState_coreOk {s : State} (hs : s.CoreOk) (x y : Half) (n : Byte) (payload : List Word64) :
    (strState x y n payload s).CoreOk := by
  have loaded := (hs.loadOperands x y (n.setWidth 16) 0#8).loadText (length_textOf_le n payload)
  unfold strState
  split
  · exact loaded.raiseIllegal
  · exact (loaded.leaveSIJ.withFb (drawText_wf hs.valid _ _ _ _ hs.fb)).respond _ _

/-- A command made of requests keeps what its end keeps: the wait leaves nothing outstanding and F in range. -/
theorem runTransfer_coreOk {reqs : List Request} {finish : State → State} {s t : State} (hs : s.CoreOk)
    (hfinish : ∀ u : State, u.CoreOk → (finish u).CoreOk) (h : runTransfer reqs finish s = .next t) : t.CoreOk := by
  rcases runTransfer_cases h with ⟨o, d, f, rfl, hf, ho⟩ | ⟨sent, rest, d, -, -, rfl, -⟩
  · obtain rfl := ho hs.idle
    exact hfinish _ (hs.afterTransport reqs _ d hf)
  · exact applyReset_coreOk hs.valid

theorem exec_coreOk {i : Instr} {s t : State} (hs : s.CoreOk) (h : exec i s = .next t) : t.CoreOk := by
  cases i with
  | clear =>
    cases h
    exact ((hs.loadOperands _ _ _ _).withFb (clearFb_wf _ _ _)).respond _ _
  | setpx x y on =>
    cases h
    exact ((hs.loadOperands x y 0#16 (argOfOn on)).withFb (setPixel_wf hs.valid _ _ _ hs.fb)).respond _ _
  | getpx x y =>
    cases h
    exact (hs.loadOperands _ _ _ _).respond _ _
  | hline x y len on =>
    cases h
    exact ((hs.loadOperands x y len (argOfOn on)).leaveK.withFb (drawHline_wf hs.valid _ _ _ _ hs.fb)).respond _ _
  | vline x y len on =>
    cases h
    exact ((hs.loadOperands x y len (argOfOn on)).leaveK.withFb (drawVline_wf hs.valid _ _ _ _ hs.fb)).respond _ _
  | char x y ch =>
    cases h
    exact ((hs.loadOperands x y 0#16 ch).leaveIJ.withFb (drawChar_wf hs.valid _ _ _ hs.fb)).respond _ _
  | str x y n payload =>
    cases h
    exact strState_coreOk hs x y n payload
  | init => exact runTransfer_coreOk (hs.loadOperands _ _ _ _) (fun _ hu => hu.setActive.leaveK.finishTransfer) h
  | flush => exact runTransfer_coreOk (hs.loadOperands _ _ _ _) (fun _ hu => hu.leavePC.finishTransfer) h
  | status =>
    cases h
    exact (hs.loadOperands _ _ _ _).respond _ _

/-! What is on offer after a command. -/

theorem responseWord_reserved (code : RspCode) (data : BitVec 16) : (responseWord code data).extractLsb' 16 12 = 0#12 :=
  (extract_low code.bits (0#12 ++ data) (by decide)).trans (extract_high 0#12 data)

theorem responseOk_of_responded {s t : State} {code : RspCode} {data : BitVec 16} (hp : t.pending = [])
    (h : s.responded t code data) : t.responseOk := by
  simp [State.responseOk, h.1, hp, responseWord_reserved]

theorem responseOk_of_none {s : State} (h : s.rsp = none) : s.responseOk := by simp [State.responseOk, h]

theorem pendingOk_of_nil {s : State} (h : s.pending = []) : s.pendingOk := .inl (by rw [h]; rfl)

/-- A command taken whole from the channel ends in the invariant, in its response or in a reset. -/
theorem exec_inv {i : Instr} {s t : State} (hs : s.CoreOk) (hp : s.pending = []) (h : exec i s = .next t) : t.Inv := by
  rcases exec_next_cases h with ⟨⟨-, hp', -⟩, -, code, data, hresp⟩ | ⟨sent, rest, d, -, -, rfl, -⟩
  · have hnil : t.pending = [] := hp'.trans hp
    exact inv_iff.2 ⟨exec_coreOk hs h, pendingOk_of_nil hnil, responseOk_of_responded hnil hresp⟩
  · exact applyReset_inv hs.valid

/-! What a step keeps. -/

theorem collect_inv {s : State} (hs : s.CoreOk) (hq : s.rsp = none) (hd : decode s.words = .incomplete) :
    s.collect.Inv := by
  obtain ⟨w, ws, hw, -, -⟩ := decode_incomplete hd
  rw [collect_eq hw, inv_iff]
  exact ⟨{ (hs.loadOperands _ _ _ _).loadText (length_receivedText_le _ _) with }, .inr (hw ▸ hd), responseOk_of_none hq⟩

theorem takeResponse_inv {s : State} (hs : s.Inv) : s.takeResponse.Inv := by
  obtain ⟨hcore, hpending, -⟩ := inv_iff.1 hs
  exact inv_iff.2 ⟨hcore.takeResponse, hpending, rfl⟩

theorem offerResponse_inv {s : State} (hs : s.Inv) : s.offerResponse.Inv := by
  rcases offerResponse_cases s with ⟨-, h⟩ | ⟨-, h⟩ <;> rw [h]
  · exact takeResponse_inv hs
  · exact hs

theorem rejectWord_inv {s : State} (hs : s.CoreOk) (hp : s.pending = []) : s.rejectWord.Inv := by
  rcases rejectWord_cases s with ⟨-, h⟩ | ⟨-, h⟩ <;> rw [h]
  · exact abandon_inv hs.valid
  · exact inv_iff.2 ⟨hs.raiseIllegal, pendingOk_of_nil hp, responseOk_of_responded (s := s) hp ⟨rfl, rfl⟩⟩

/-- Settles O9, by the kind of step: a reset state meets the invariant, and the other steps keep it. -/
theorem stepKeepsTheInvariant : Obligations.StepKeepsTheInvariant := by
  intro s t hinv h
  have hs : s.CoreOk := (inv_iff.1 hinv).1
  obtain ⟨hv, ⟨-, rfl⟩ | ⟨-, -, rfl⟩ | ⟨-, hq, hcases⟩⟩ := step_next_cases h
  · exact applyReset_inv hv
  · exact offerResponse_inv hinv
  · rcases hcases with ⟨-, rfl⟩ | ⟨hd, rfl⟩ | ⟨why, rest, -, rfl⟩ | ⟨i, rest, -, -, rfl⟩ | ⟨i, rest, -, -, hexec⟩
    · exact hinv
    · exact collect_inv hs hq hd
    · exact rejectWord_inv (hs.consume rest) rfl
    · exact abandon_inv hv
    · exact exec_inv (hs.consume rest) rfl hexec

/-- Settles O8: the default configuration can be built, FB and TXT have their sizes, and the channels are empty. -/
theorem resetMeetsTheInvariant : Obligations.ResetMeetsTheInvariant :=
  inv_iff.2 ⟨
    { valid := defaultConfig_valid
      fb := by rw [State.reset_fb]; exact Memory.ofBytes_wf _ _
      txt := by rw [State.reset_txt]; exact length_resetTxt
      idle := rfl
      counters := by decide },
    .inl rfl, rfl⟩

end Sys2Proof.Machine
end

section
/-! SUPPORT. The reset state (R31, R127, R128): what State.reset holds, and what a reset leaves at each instant it comes. -/

namespace Sys2Proof.Machine

/-- Every byte of the framebuffer after a reset is that reset's draw (R31; log entry 3). -/
theorem read_resetFb {c : Config} {a : Nat} (n : Nat) (h : a < c.fbSize) : (resetFb c n).read a = Config.fbDraw n a := by
  rw [resetFb, Memory.read_ofBytes, if_pos h]

theorem statusWord_eq_zero {s : State} (hdcs : s.dcs = .uninit) (hbus : s.busErr = false) (hill : s.ill = false) :
    s.statusWord = 0#16 := by
  rw [State.statusWord, hdcs, hbus, hill]
  rfl

/-- Settles O7: the status bits and the channels are literal, the framebuffer is draw number 0. -/
theorem resetState : Obligations.ResetState := by
  refine ⟨rfl, rfl, rfl, statusWord_eq_zero rfl rfl rfl, rfl, rfl, rfl, fun a h => ?_⟩
  rw [State.reset_fb]
  exact read_resetFb 0 h

/-- Settles O49: such a step is `applyReset`, whatever else is going on. -/
theorem rstTakesTheResetState : Obligations.RstTakesTheResetState := by
  intro s hv hr
  exact ⟨s.applyReset, step_of_reset hv hr, statusWord_eq_zero rfl rfl rfl, rfl, rfl, rfl, rfl, rfl, rfl, rfl, rfl,
    fun a h => read_resetFb _ h, rfl, rfl, rfl, rfl, rfl⟩

/-- A command that has a request to send is INIT or FLUSH (R49). -/
theorem requestsOf_ne_nil {i : Instr} {s : State} (h : requestsOf i s ≠ []) : i = .init ∨ i = .flush := by
  cases i with
  | init => exact .inl rfl
  | flush => exact .inr rfl
  | _ => exact absurd rfl h

/-- Settles O50: of the two ways a command ends, only the reset met in a wait changes the number of resets. -/
theorem resetAbandonsACommand : Obligations.ResetAbandonsACommand := by
  intro i s t h hres
  rcases exec_next_cases h with ⟨⟨-, -, -, -, -, -, hsame⟩, -⟩ | ⟨sent, rest, d, hreq, hne, rfl, -⟩
  · exact absurd hsame hres
  · have hi : i = .init ∨ i = .flush := requestsOf_ne_nil (s := s) (by simp [hreq, hne])
    exact ⟨hi, rfl, rfl, rfl, rfl, rfl, rfl, rfl, rfl, fun a ha => read_resetFb _ ha, rfl, rfl, sent, rest, hne, hreq, rfl⟩

/-- A command or an illegal word that is complete and then met by `rst` is abandoned (R65, R128). -/
theorem step_of_rstInCmd {s : State} {rest : List Word64} (hv : s.cfg.valid = true) (hr : s.rstPin = false)
    (hq : s.rsp = none) (hc : s.rstInCmd = true)
    (hd : (∃ i, decode s.words = .command i rest) ∨ ∃ why, decode s.words = .illegal why rest) :
    step s = .next (s.consume rest).abandon := by
  rcases hd with ⟨i, hd⟩ | ⟨why, hd⟩
  · rw [step_of_command hv hr hq hd, if_pos hc]
  · rw [step_of_illegal hv hr hq hd]
    simp [State.rejectWord, hc]

/-- Settles O56: whatever the words were, the step is `abandon` on the state without them. -/
theorem resetAbandonsAnyCommand : Obligations.ResetAbandonsAnyCommand := by
  intro s rest hv hr hq hc hd
  exact ⟨(s.consume rest).abandon, step_of_rstInCmd hv hr hq hc hd, rfl, rfl, rfl, rfl, rfl, rfl, rfl, rfl, rfl, rfl,
    fun a ha => read_resetFb _ ha, rfl, rfl, rfl⟩

end Sys2Proof.Machine
end

section
/-! SUPPORT. What a step leaves alone: the parameters (R25), the STATUS bits but for their writers (R20 to R23), and the
words after a command's own (R60). -/

namespace Sys2Proof.Machine

/-! The parameters. -/

@[simp] theorem State.rejectWord_cfg (s : State) : s.rejectWord.cfg = s.cfg := by
  rcases rejectWord_cases s with ⟨-, h⟩ | ⟨-, h⟩ <;> simp [h]

@[simp] theorem State.offerResponse_cfg (s : State) : s.offerResponse.cfg = s.cfg := by
  rcases offerResponse_cases s with ⟨-, h⟩ | ⟨-, h⟩ <;> simp [h]

theorem exec_cfg {i : Instr} {s t : State} (h : exec i s = .next t) : t.cfg = s.cfg := by
  rcases exec_next_cases h with ⟨⟨hcfg, -⟩, -⟩ | ⟨sent, rest, d, -, -, rfl, -⟩
  · exact hcfg
  · rfl

/-- Settles O6, by the kind of step. -/
theorem noStepChangesTheConfiguration : Obligations.NoStepChangesTheConfiguration := by
  intro s t h
  obtain ⟨-, ⟨-, rfl⟩ | ⟨-, -, rfl⟩ | ⟨-, -, hcases⟩⟩ := step_next_cases h
  · simp
  · simp
  · rcases hcases with ⟨-, rfl⟩ | ⟨-, rfl⟩ | ⟨why, rest, -, rfl⟩ | ⟨i, rest, -, -, rfl⟩ | ⟨i, rest, -, -, hexec⟩
    · rfl
    · simp
    · simp
    · simp
    · exact exec_cfg (s := s.consume rest) hexec

/-! The STATUS bits. -/

theorem applyReset_resets_ne (s : State) : s.applyReset.resets ≠ s.resets := Nat.succ_ne_self _

theorem abandon_resets_ne (s : State) : s.abandon.resets ≠ s.resets := Nat.succ_ne_self _

/-- A command made of requests that no reset met ran to its end. -/
theorem runTransfer_completed {reqs : List Request} {finish : State → State} {s t : State}
    (h : runTransfer reqs finish s = .next t) (hres : t.resets = s.resets) :
    ∃ o d f, t = finish (s.afterTransport reqs o (s.trIn.drop reqs.length) d f) := by
  rcases runTransfer_cases h with ⟨o, d, f, rfl, -, -⟩ | ⟨sent, rest, d, -, -, rfl, -⟩
  · exact ⟨o, d, f, rfl⟩
  · exact absurd hres (applyReset_resets_ne (s.afterTransport sent none _ d 0))

/-- The end of INIT and FLUSH sets BUSERR or leaves it (R22). -/
theorem finishTransfer_busErr_cases (s : State) : s.finishTransfer.busErr = s.busErr ∨ s.finishTransfer.busErr = true := by
  rw [State.finishTransfer_busErr]
  cases s.ctr.f != 0 <;> simp

/-- The only changes of the STATUS bits by a command that no reset met (R20 to R23): INIT sets DCS, INIT and FLUSH may
set BUSERR, an STR with bad padding sets ILL. -/
theorem exec_status_cases {i : Instr} {s t : State} (h : exec i s = .next t) (hres : t.resets = s.resets) :
    (t.dcs = s.dcs ∨ i = .init ∧ t.dcs = .active)
      ∧ (t.busErr = s.busErr ∨ (i = .init ∨ i = .flush) ∧ t.busErr = true)
      ∧ (t.ill = s.ill ∨ (∃ x y n payload, i = .str x y n payload ∧ badPadding n payload = true) ∧ t.ill = true) := by
  cases i with
  | str x y n payload =>
    cases h
    unfold strState
    split
    · exact ⟨.inl rfl, .inl rfl, .inr ⟨⟨x, y, n, payload, rfl, ‹_›⟩, rfl⟩⟩
    · exact ⟨.inl rfl, .inl rfl, .inl rfl⟩
  | init =>
    obtain ⟨o, d, f, rfl⟩ := runTransfer_completed h hres
    exact ⟨.inr ⟨rfl, rfl⟩, (finishTransfer_busErr_cases _).imp id fun hb => ⟨.inl rfl, hb⟩, .inl rfl⟩
  | flush =>
    obtain ⟨o, d, f, rfl⟩ := runTransfer_completed h hres
    exact ⟨.inl rfl, (finishTransfer_busErr_cases _).imp id fun hb => ⟨.inr rfl, hb⟩, .inl rfl⟩
  | _ =>
    cases h
    exact ⟨.inl rfl, .inl rfl, .inl rfl⟩

/-- Settles O3: a bit that changed was set by its writer. -/
theorem statusBitsHaveTheirWriters : Obligations.StatusBitsHaveTheirWriters := by
  intro i s t h hres
  obtain ⟨hdcs, hbus, hill⟩ := exec_status_cases h hres
  exact ⟨fun hne => (hdcs.resolve_left hne).1, fun hne => (hbus.resolve_left hne).1, fun hne => (hill.resolve_left hne).1⟩

/-- The STATUS bits that are 1 in `s` are 1 in `t` (R20). -/
def State.statusKept (s t : State) : Prop :=
  (s.dcs = .active → t.dcs = .active) ∧ (s.busErr = true → t.busErr = true) ∧ (s.ill = true → t.ill = true)

theorem statusKept_of_sameStatus {s t : State} (h : s.sameStatus t) : s.statusKept t := by
  obtain ⟨hdcs, hbus, hill⟩ := h
  exact ⟨hdcs.trans, hbus.trans, hill.trans⟩

theorem exec_statusKept {i : Instr} {s t : State} (h : exec i s = .next t) (hres : t.resets = s.resets) :
    s.statusKept t := by
  obtain ⟨hdcs, hbus, hill⟩ := exec_status_cases h hres
  exact ⟨fun hs => hdcs.elim (·.trans hs) And.right, fun hs => hbus.elim (·.trans hs) And.right,
    fun hs => hill.elim (·.trans hs) And.right⟩

theorem offerResponse_sameStatus (s : State) : s.sameStatus s.offerResponse := by
  rcases offerResponse_cases s with ⟨-, h⟩ | ⟨-, h⟩ <;> rw [h] <;> exact ⟨rfl, rfl, rfl⟩

theorem collect_sameStatus (s : State) : s.sameStatus s.collect := by simp [State.sameStatus]

theorem rejectWord_statusKept {s : State} (hres : s.rejectWord.resets = s.resets) : s.statusKept s.rejectWord := by
  rcases rejectWord_cases s with ⟨-, h⟩ | ⟨-, h⟩ <;> rw [h] at hres ⊢
  · exact absurd hres (abandon_resets_ne s)
  · exact ⟨id, id, fun _ => rfl⟩

theorem step_statusKept {s t : State} (h : step s = .next t) (hres : t.resets = s.resets) : s.statusKept t := by
  obtain ⟨-, ⟨-, rfl⟩ | ⟨-, -, rfl⟩ | ⟨-, -, hcases⟩⟩ := step_next_cases h
  · exact absurd hres (applyReset_resets_ne s)
  · exact statusKept_of_sameStatus (offerResponse_sameStatus s)
  · rcases hcases with ⟨-, rfl⟩ | ⟨-, rfl⟩ | ⟨why, rest, -, rfl⟩ | ⟨i, rest, -, -, rfl⟩ | ⟨i, rest, -, -, hexec⟩
    · exact ⟨id, id, id⟩
    · exact statusKept_of_sameStatus (collect_sameStatus s)
    · exact rejectWord_statusKept (s := s.consume rest) hres
    · exact absurd hres (abandon_resets_ne (s.consume rest))
    · exact exec_statusKept (s := s.consume rest) hexec hres

/-- STATUS bits 15:3 read 0 (R20). -/
theorem statusWord_getLsbD_of_le (s : State) {b : Nat} (h : 3 ≤ b) : s.statusWord.getLsbD b = false := by
  rw [State.statusWord, BitVec.getLsbD_append, if_neg (by omega)]
  exact BitVec.getLsbD_zero

/-- Settles O10: the zeros of `statusWord`, and `statusKept` by the kind of step. -/
theorem statusBitsAreMonotone : Obligations.StatusBitsAreMonotone :=
  fun _ t h => ⟨fun _ hb => statusWord_getLsbD_of_le t hb, step_statusKept h⟩

/-! The words a command takes. -/

/-- How many words a command takes (R19, R60). -/
def wordsTaken : Instr → Nat
  | .str _ _ n _ => 1 + payloadWords n
  | _ => 1

theorem decode_command_length {ws rest : List Word64} {i : Instr} (h : decode ws = .command i rest) :
    ws.length = rest.length + wordsTaken i := by
  cases ws with
  | nil => cases h
  | cons w ws =>
    rw [decode] at h
    split at h
    · cases h
    · rename_i op _
      cases op with
      | str =>
        simp only [decodeRow, decodeStr] at h
        split at h
        · cases h
          simp only [wordsTaken, List.length_cons, List.length_drop]
          omega
        · cases h
      | _ =>
        cases h
        rfl

theorem decode_illegal_length {ws rest : List Word64} {why : Illegality} (h : decode ws = .illegal why rest) :
    ws.length = rest.length + 1 := by
  cases ws with
  | nil => cases h
  | cons w ws =>
    rw [decode] at h
    split at h
    · cases h
      rfl
    · rename_i op _
      cases op with
      | str =>
        simp only [decodeRow, decodeStr] at h
        split at h <;> cases h
      | _ => cases h

/-- A command that no reset met leaves the command channel as it was. -/
theorem exec_channel {i : Instr} {s t : State} (h : exec i s = .next t) (hres : t.resets = s.resets) :
    t.pending = s.pending ∧ t.cmdIn = s.cmdIn := by
  rcases exec_next_cases h with ⟨⟨-, hp, -, -, -, hc, -⟩, -⟩ | ⟨sent, rest, d, -, -, rfl, -⟩
  · exact ⟨hp, hc⟩
  · exact absurd hres (applyReset_resets_ne (s.afterTransport sent none _ d 0))

section
variable {s t : State} {rest : List Word64} (hr : s.rstPin = false) (hq : s.rsp = none) (h : step s = .next t)
include hr hq h

/-- A step that runs a command leaves the words after it. -/
theorem step_command_channel (hres : t.resets = s.resets) {i : Instr} (hd : decode s.words = .command i rest) :
    t.pending = [] ∧ t.cmdIn = rest := by
  rw [step_of_command (step_next_cases h).1 hr hq hd] at h
  split at h
  · cases h
    exact absurd hres (abandon_resets_ne (s.consume rest))
  · exact exec_channel (s := s.consume rest) h hres

/-- A step that takes an illegal word leaves the words after it, reset or not. -/
theorem step_illegal_channel {why : Illegality} (hd : decode s.words = .illegal why rest) :
    t.pending = [] ∧ t.cmdIn = rest := by
  rw [step_of_illegal (step_next_cases h).1 hr hq hd] at h
  cases h
  rcases rejectWord_cases (s.consume rest) with ⟨-, heq⟩ | ⟨-, heq⟩ <;> rw [heq] <;> exact ⟨rfl, rfl⟩

end

/-- Settles O17: what stays on the channel, by the kind of step, and how much was taken, by the decoder. -/
theorem commandsTakeTheirWords : Obligations.CommandsTakeTheirWords := by
  intro s t hr hq h hres
  constructor
  · intro i rest hd
    obtain ⟨hp, hc⟩ := step_command_channel hr hq h hres hd
    refine ⟨hp, hc, (decode_command_length hd).trans ?_⟩
    cases i <;> rfl
  · intro why rest hd
    obtain ⟨hp, hc⟩ := step_illegal_channel hr hq h hd
    exact ⟨hp, hc, decode_illegal_length hd⟩

end Sys2Proof.Machine
end

section
/-! SUPPORT. Two runs side by side (R17, R24, R30): a relation between states that each operation keeps is kept by a
command, and the two relations the noninterference statements are about. -/

namespace Sys2Proof.Machine

/-! What it is for two waits and two commands to end alike. -/

/-- Two waits end the same way, in related states. -/
inductive Waited.Alike (R : State → State → Prop) : Waited → Waited → Prop
  | answered {s t : State} (h : R s t) : Waited.Alike R (.answered s) (.answered t)
  | abandoned {s t : State} (h : R s t) : Waited.Alike R (.abandoned s) (.abandoned t)
  | hung : Waited.Alike R .hung .hung

/-- Two commands end the same way, in related states or with the same reason. -/
inductive Alike (R : State → State → Prop) :
    Host.Outcome State Fault Refusal → Host.Outcome State Fault Refusal → Prop
  | next {s t : State} (h : R s t) : Alike R (.next s) (.next t)
  | fault (r : Fault) : Alike R (.fault r) (.fault r)
  | refused (r : Refusal) : Alike R (.refused r) (.refused r)

/-! The transport, one equation per event (R69, R96, R120, R128). -/

section
variable {s : State} (req : Request)

theorem transact_of_nil (hl : s.trIn = []) :
    transact req s =
      .answered (s.afterTransport [req] none [] (s.trDraw + 1) (countResult (Config.trResult s.trDraw) s.ctr.f)) := by
  simp [transact, hl, State.afterTransport, State.receive, State.send]

theorem transact_of_result {code : BitVec 2} {l : List TrEvent} (hl : s.trIn = .result code :: l) :
    transact req s = .answered (s.afterTransport [req] none l s.trDraw (countResult code s.ctr.f)) := by
  simp [transact, hl, State.afterTransport, State.receive, State.send]

theorem transact_of_rst {l : List TrEvent} (hl : s.trIn = .rst :: l) :
    transact req s = .abandoned (s.afterTransport [req] none l s.trDraw 0).applyReset := by
  simp [transact, hl, State.afterTransport, State.send, State.applyReset]

theorem transact_of_silent {l : List TrEvent} (hl : s.trIn = .silent :: l) : transact req s = .hung := by
  simp [transact, hl]

end

/-- What a relation between states needs so that a request keeps it: related states are offered the same events, and
the same result, or a reset, leaves them related. -/
structure KeptByTransport (Q : State → State → Prop) : Prop where
  events {s t : State} : Q s t → t.trIn = s.trIn
  draws {s t : State} : Q s t → t.trDraw = s.trDraw
  answer {s t : State} : Q s t → ∀ (sent : List Request) (l : List TrEvent) (d : Nat) (code : BitVec 2),
    Q (s.afterTransport sent none l d (countResult code s.ctr.f)) (t.afterTransport sent none l d (countResult code t.ctr.f))
  reset {s t : State} : Q s t → ∀ (sent : List Request) (l : List TrEvent) (d : Nat),
    Q (s.afterTransport sent none l d 0).applyReset (t.afterTransport sent none l d 0).applyReset

section
variable {Q : State → State → Prop} (hQ : KeptByTransport Q)
include hQ

theorem transact_alike (req : Request) {s t : State} (h : Q s t) :
    Waited.Alike Q (transact req s) (transact req t) := by
  have hev := hQ.events h
  have hd := hQ.draws h
  cases hl : s.trIn with
  | nil =>
    rw [transact_of_nil req hl, transact_of_nil req (hev.trans hl), hd]
    exact .answered (hQ.answer h _ _ _ _)
  | cons e l =>
    cases e with
    | result code =>
      rw [transact_of_result req hl, transact_of_result req (hev.trans hl), hd]
      exact .answered (hQ.answer h _ _ _ _)
    | rst =>
      rw [transact_of_rst req hl, transact_of_rst req (hev.trans hl), hd]
      exact .abandoned (hQ.reset h _ _ _)
    | silent =>
      rw [transact_of_silent req hl, transact_of_silent req (hev.trans hl)]
      exact .hung

theorem runRequests_alike (reqs : List Request) {s t : State} (h : Q s t) :
    Waited.Alike Q (runRequests reqs s) (runRequests reqs t) := by
  induction reqs generalizing s t with
  | nil => exact .answered h
  | cons req reqs ih =>
    rw [runRequests, runRequests]
    have hreq := transact_alike hQ req h
    generalize transact req s = w, transact req t = w' at hreq ⊢
    cases hreq with
    | answered h' => exact ih h'
    | abandoned h' => exact .abandoned h'
    | hung => exact .hung

/-- Two transfers that are related once F is cleared end alike, in the relation that their end makes of `Q`. -/
theorem runTransfer_alike {R : State → State → Prop} (reqs : List Request) {finish : State → State} {s t : State}
    (h : Q s.clearFailures t.clearFailures) (hQR : ∀ {u v : State}, Q u v → R u v)
    (hfinish : ∀ {u v : State}, Q u v → R (finish u) (finish v)) :
    Alike R (runTransfer reqs finish s) (runTransfer reqs finish t) := by
  rw [runTransfer, runTransfer]
  have hreqs := runRequests_alike hQ reqs h
  generalize runRequests reqs s.clearFailures = w, runRequests reqs t.clearFailures = w' at hreqs ⊢
  cases hreqs with
  | answered h' => exact .next (hfinish h')
  | abandoned h' => exact .next (hQR h')
  | hung => exact .fault _

end

/-! The STATUS bits (R24). -/

/-- `t` is `s` but for the STATUS bits. -/
def State.sameButStatus (s t : State) : Prop := ∃ d b l, t = { s with dcs := d, busErr := b, ill := l }

theorem sameButStatus_keptByTransport : KeptByTransport State.sameButStatus where
  events := by
    rintro s _ ⟨d, b, l, rfl⟩
    rfl
  draws := by
    rintro s _ ⟨d, b, l, rfl⟩
    rfl
  answer := by
    rintro s _ ⟨d, b, l, rfl⟩ sent events draw code
    exact ⟨d, b, l, rfl⟩
  reset := by
    rintro s _ ⟨d, b, l, rfl⟩ sent events draw
    exact ⟨_, _, _, rfl⟩

theorem initEnd_sameButStatus {s t : State} (h : s.sameButStatus t) :
    s.setActive.leaveK.finishTransfer.sameButStatus t.setActive.leaveK.finishTransfer := by
  obtain ⟨d, b, l, rfl⟩ := h
  exact ⟨_, _, _, rfl⟩

theorem flushEnd_sameButStatus {s t : State} (h : s.sameButStatus t) :
    s.leavePC.finishTransfer.sameButStatus t.leavePC.finishTransfer := by
  obtain ⟨d, b, l, rfl⟩ := h
  exact ⟨_, _, _, rfl⟩

theorem strState_sameButStatus (x y : Half) (n : Byte) (payload : List Word64) {s t : State} (h : s.sameButStatus t) :
    (strState x y n payload s).sameButStatus (strState x y n payload t) := by
  obtain ⟨d, b, l, rfl⟩ := h
  unfold strState
  split
  · exact ⟨d, b, true, rfl⟩
  · exact ⟨d, b, l, rfl⟩

theorem exec_sameButStatus {i : Instr} (hi : i ≠ .status) {s t : State} (h : s.sameButStatus t) :
    Alike State.sameButStatus (exec i s) (exec i t) := by
  cases i with
  | str x y n payload => exact .next (strState_sameButStatus x y n payload h)
  | init =>
    obtain ⟨d, b, l, rfl⟩ := h
    exact runTransfer_alike sameButStatus_keptByTransport _ ⟨d, b, l, rfl⟩ id initEnd_sameButStatus
  | flush =>
    obtain ⟨d, b, l, rfl⟩ := h
    exact runTransfer_alike sameButStatus_keptByTransport _ ⟨d, b, l, rfl⟩ id flushEnd_sameButStatus
  | status => exact absurd rfl hi
  | _ =>
    obtain ⟨d, b, l, rfl⟩ := h
    exact .next ⟨d, b, l, rfl⟩

/-- Settles O4: a command that is not STATUS keeps the relation "the same but for the STATUS bits". -/
theorem statusBitsInfluenceOnlyStatus : Obligations.StatusBitsInfluenceOnlyStatus := by
  intro i s d b l hi
  have hexec := exec_sameButStatus hi (⟨d, b, l, rfl⟩ : s.sameButStatus { s with dcs := d, busErr := b, ill := l })
  generalize exec i s = o, exec i { s with dcs := d, busErr := b, ill := l } = o' at hexec ⊢
  cases hexec with
  | next h =>
    obtain ⟨d', b', l', rfl⟩ := h
    rfl
  | fault r => rfl
  | refused r => rfl

/-! The hidden registers (R17, R18, R28, R30). -/

/-- `t` is `s` but for the operand registers, the counters and TXT. -/
def State.sameButHidden (s t : State) : Prop :=
  ∃ x y len arg ctr txt, t = { s with x := x, y := y, len := len, arg := arg, ctr := ctr, txt := txt }

/-- `t` is `s` but for the hidden registers other than F, which decides the response of INIT and FLUSH (R64). -/
def State.sameButHiddenNotF (s t : State) : Prop := s.sameButHidden t ∧ t.ctr.f = s.ctr.f

theorem sameButHiddenNotF_keptByTransport : KeptByTransport State.sameButHiddenNotF where
  events := by
    rintro s _ ⟨⟨x, y, len, arg, ctr, txt, rfl⟩, -⟩
    rfl
  draws := by
    rintro s _ ⟨⟨x, y, len, arg, ctr, txt, rfl⟩, -⟩
    rfl
  answer := by
    rintro s _ ⟨⟨x, y, len, arg, ctr, txt, rfl⟩, hf⟩ sent events draw code
    exact ⟨⟨x, y, len, arg, _, txt, rfl⟩, congrArg (countResult code) hf⟩
  reset := by
    rintro s _ ⟨⟨x, y, len, arg, ctr, txt, rfl⟩, -⟩ sent events draw
    exact ⟨⟨_, _, _, _, _, _, rfl⟩, rfl⟩

theorem finishTransfer_sameButHidden {s t : State} (h : s.sameButHiddenNotF t) :
    s.finishTransfer.sameButHidden t.finishTransfer := by
  obtain ⟨⟨x, y, len, arg, ctr, txt, rfl⟩, hf⟩ := h
  simp only at hf
  refine ⟨x, y, len, arg, ctr, txt, ?_⟩
  simp only [State.finishTransfer, State.noteFailures, State.respond, hf]

theorem setActive_leaveK_sameButHiddenNotF {s t : State} (h : s.sameButHiddenNotF t) :
    s.setActive.leaveK.sameButHiddenNotF t.setActive.leaveK := by
  obtain ⟨⟨x, y, len, arg, ctr, txt, rfl⟩, hf⟩ := h
  exact ⟨⟨x, y, len, arg, _, txt, rfl⟩, hf⟩

theorem leavePC_sameButHiddenNotF {s t : State} (h : s.sameButHiddenNotF t) :
    s.leavePC.sameButHiddenNotF t.leavePC := by
  obtain ⟨⟨x, y, len, arg, ctr, txt, rfl⟩, hf⟩ := h
  exact ⟨⟨x, y, len, arg, _, txt, rfl⟩, hf⟩

theorem strState_sameButHidden (x y : Half) (n : Byte) (payload : List Word64) {s t : State} (h : s.sameButHidden t) :
    (strState x y n payload s).sameButHidden (strState x y n payload t) := by
  obtain ⟨x', y', len, arg, ctr, txt, rfl⟩ := h
  unfold strState
  split <;> exact ⟨_, _, _, _, _, _, rfl⟩

theorem exec_sameButHidden (i : Instr) {s t : State} (h : s.sameButHidden t) :
    Alike State.sameButHidden (exec i s) (exec i t) := by
  cases i with
  | str x y n payload => exact .next (strState_sameButHidden x y n payload h)
  | init =>
    obtain ⟨x, y, len, arg, ctr, txt, rfl⟩ := h
    exact runTransfer_alike sameButHiddenNotF_keptByTransport _ ⟨⟨_, _, _, _, _, txt, rfl⟩, rfl⟩ And.left
      fun h => finishTransfer_sameButHidden (setActive_leaveK_sameButHiddenNotF h)
  | flush =>
    obtain ⟨x, y, len, arg, ctr, txt, rfl⟩ := h
    exact runTransfer_alike sameButHiddenNotF_keptByTransport _ ⟨⟨_, _, _, _, _, txt, rfl⟩, rfl⟩ And.left
      fun h => finishTransfer_sameButHidden (leavePC_sameButHiddenNotF h)
  | _ =>
    obtain ⟨x, y, len, arg, ctr, txt, rfl⟩ := h
    exact .next ⟨_, _, _, _, _, _, rfl⟩

/-- Settles O5: every command keeps the relation "the same but for the hidden registers". -/
theorem hiddenStateIsUnobservable : Obligations.HiddenStateIsUnobservable := by
  intro i s x y len arg ctr txt
  have hexec := exec_sameButHidden i (⟨x, y, len, arg, ctr, txt, rfl⟩ :
    s.sameButHidden { s with x := x, y := y, len := len, arg := arg, ctr := ctr, txt := txt })
  generalize exec i s = o, exec i { s with x := x, y := y, len := len, arg := arg, ctr := ctr, txt := txt } = o'
    at hexec ⊢
  cases hexec with
  | next h =>
    obtain ⟨x', y', len', arg', ctr', txt', rfl⟩ := h
    rfl
  | fault r => rfl
  | refused r => rfl

end Sys2Proof.Machine
end

section
/-! SUPPORT. Framebuffer and pixels (20_memory.md): a pixel's address read as arithmetic (R36), the pixel of each bit of
each byte (R37), and writes of one byte to a list of addresses (R42). -/

namespace Sys2Proof.Machine

/-! The address of a pixel. -/

theorem page_cast {y : Int} (hy : 0 ≤ y) : (page y : Int) = y / 8 :=
  Int.toNat_of_nonneg (Int.ediv_nonneg hy (by decide))

theorem bitNo_cast (y : Int) : (bitNo y : Int) = y % 8 :=
  Int.toNat_of_nonneg (Int.emod_nonneg y (by decide))

theorem byteIndex_cast (c : Config) {x y : Int} (hx : 0 ≤ x) (hy : 0 ≤ y) :
    (byteIndex c x y : Int) = y / 8 * c.width + x := by
  rw [byteIndex, Nat.cast_add, Nat.cast_mul, page_cast hy, Int.toNat_of_nonneg hx]

/-- An in-bounds pixel is its bit of its byte (R36, R74). -/
theorem getPixel_of_inBounds {c : Config} {x y : Int} (m : Memory) (h : inBounds c x y = true) :
    getPixel c m x y = (m.read (byteIndex c x y)).getLsbD (bitNo y) := by
  rw [getPixel, h, Bool.true_and]

/-- Settles O11: each part of the address read as arithmetic on integers, and the byte's bit as its number's bit. -/
theorem pixelIsBitOfByte : Obligations.PixelIsBitOfByte := by
  intro c m x y h
  obtain ⟨hx, -, hy, -⟩ := inBounds_iff.1 h
  refine ⟨page_cast hy, byteIndex_cast c hx hy, bitNo_cast y, ?_⟩
  rw [getPixel_of_inBounds m h, BitVec.testBit_toNat]

/-! The pixel in column `x` and bit `b` of page `p`. -/

section
variable (p : Nat) {b : Nat} (hb : b < 8)
include hb

theorem page_mul_add : page ((8 * p + b : Nat) : Int) = p := by
  unfold page
  omega

theorem bitNo_mul_add : bitNo ((8 * p + b : Nat) : Int) = b := by
  unfold bitNo
  omega

theorem byteIndex_mul_add (c : Config) (x : Nat) :
    byteIndex c (x : Int) ((8 * p + b : Nat) : Int) = p * c.width + x := by
  rw [byteIndex, page_mul_add p hb, Int.toNat_natCast]

end

theorem inBounds_mul_add {c : Config} (hc : c.valid = true) {p x b : Nat} (hp : p < c.pages) (hx : x < c.width)
    (hb : b < 8) : inBounds c (x : Int) ((8 * p + b : Nat) : Int) = true := by
  have := Config.height_eq hc
  rw [inBounds_iff]
  omega

/-- Bit `b` of byte `p * WIDTH + x` is the pixel (x, 8 * p + b) (R37 item 2, R39). -/
theorem getPixel_mul_add {c : Config} (hc : c.valid = true) (m : Memory) {p x b : Nat} (hp : p < c.pages)
    (hx : x < c.width) (hb : b < 8) :
    getPixel c m (x : Int) ((8 * p + b : Nat) : Int) = (m.read (p * c.width + x)).getLsbD b := by
  rw [getPixel_of_inBounds m (inBounds_mul_add hc hp hx hb), byteIndex_mul_add p hb, bitNo_mul_add p hb]

/-- Column `x` of page `p` lies in the framebuffer (R37 item 1). -/
theorem mul_width_add_lt_fbSize {c : Config} (hc : c.valid = true) {p x : Nat} (hp : p < c.pages) (hx : x < c.width) :
    p * c.width + x < c.fbSize := by
  rw [← byteIndex_mul_add p (b := 0) (by decide) c x]
  exact byteIndex_lt hc (inBounds_mul_add hc hp hx (by decide))

/-- The page of a framebuffer byte is one of the panel's (R6). -/
theorem div_width_lt_pages {c : Config} (hc : c.valid = true) {a : Nat} (ha : a < c.fbSize) : a / c.width < c.pages := by
  rw [Nat.div_lt_iff_lt_mul (Config.width_pos hc), ← Config.fbSize_eq hc]
  exact ha

/-- Settles O12: the laws of the pixel mapper, and for the way back from a bit to its pixel the page and column that
division of the byte's index gives. -/
theorem pixelAddressesAreOneToOne : Obligations.PixelAddressesAreOneToOne := by
  intro c hc
  refine ⟨fun x y h => ⟨byteIndex_lt hc h, bitNo_lt y⟩, fun x y x' y' h h' => pixel_unique h h',
    fun a b ha hb => ⟨?inPanel, ?byte, bitNo_mul_add _ hb⟩, fun x y x' y' h h' => byteIndex_eq_iff h h',
    fun x y h => pixelOf_byteIndex h, fun a b => rfl⟩
  case inPanel =>
    exact inBounds_mul_add hc (div_width_lt_pages hc ha) (Nat.mod_lt a (Config.width_pos hc)) hb
  case byte => rw [byteIndex_mul_add _ hb, Nat.div_add_mod']

/-! One byte written to each address of a list. -/

theorem Memory.foldl_write_wf {size : Nat} {m : Memory} (hm : m.wf size = true) {as : List Nat}
    (has : ∀ a ∈ as, a < size) (v : Byte) : (as.foldl (fun m a => m.write a v) m).wf size = true := by
  induction as generalizing m with
  | nil => exact hm
  | cons a as ih =>
    obtain ⟨ha, has⟩ := List.forall_mem_cons.1 has
    exact ih (write_wf hm ha v) has

/-- After the writes, the listed addresses read as the byte written and every other as before. -/
theorem Memory.read_foldl_write {size : Nat} {m : Memory} (hm : m.wf size = true) {as : List Nat}
    (has : ∀ a ∈ as, a < size) (v : Byte) (k : Nat) :
    (as.foldl (fun m a => m.write a v) m).read k = if k ∈ as then v else m.read k := by
  induction as generalizing m with
  | nil => simp
  | cons a as ih =>
    obtain ⟨ha, has⟩ := List.forall_mem_cons.1 has
    rw [List.foldl_cons, ih (write_wf hm ha v) has, read_write hm]
    by_cases hk : k ∈ as <;> simp [hk]

/-- Settles O24: both framebuffers are canonical and read 0x00 everywhere, the loop's because it writes every address
below FB_SIZE and no cell lies beyond. -/
theorem clearIsTheLoopOfWrites : Obligations.ClearIsTheLoopOfWrites := by
  intro c m hm
  have hrange : ∀ a ∈ List.range c.fbSize, a < c.fbSize := fun a => List.mem_range.1
  refine Memory.ext (Memory.foldl_write_wf hm hrange _) (clearFb_wf c m _) fun k => ?_
  rw [Memory.read_foldl_write hm hrange, read_clearFb]
  split
  case isTrue => rfl
  case isFalse hk => exact Memory.read_beyond hm (by simpa using hk)

end Sys2Proof.Machine
end

section
/-! SUPPORT. The data bytes of a FLUSH (R104, R108): page by page they are the framebuffer. -/

namespace Sys2Proof.Machine

/-! The data bytes of a list of requests. -/

theorem dataBytes_append (reqs reqs' : List Request) :
    dataBytes (reqs ++ reqs') = dataBytes reqs ++ dataBytes reqs' := List.flatMap_append

theorem dataBytes_flatMap {α : Type} (l : List α) (f : α → List Request) :
    dataBytes (l.flatMap f) = l.flatMap fun a => dataBytes (f a) := List.flatMap_assoc

/-- Either transfer mode carries the bytes it is given, in order (R110). -/
@[simp] theorem dataBytes_dataRequests (mode : XferMode) (bytes : List Byte) :
    dataBytes (dataRequests mode bytes) = bytes := by
  cases mode with
  | bulk => exact List.append_nil bytes
  | single => simp [dataRequests, dataBytes, List.flatMap_map]

/-- The data bytes of a page are its WIDTH bytes; its commands carry none (R103). -/
theorem dataBytes_pageRequests (c : Config) (m : Memory) (p : Nat) :
    dataBytes (pageRequests c m p) = m.slice (p * c.width) c.width := by
  rw [pageRequests, dataBytes_append, dataBytes_dataRequests]
  rfl

/-! Consecutive slices of a memory. -/

theorem Memory.slice_add (m : Memory) (first k l : Nat) :
    m.slice first (k + l) = m.slice first k ++ m.slice (first + k) l := by
  simp [slice, List.range_add, Nat.add_assoc]

theorem Memory.slice_zero_eq_map_read (m : Memory) (n : Nat) : m.slice 0 n = (List.range n).map m.read := by
  simp [slice]

/-- Slices of `w` bytes, each beginning where the one before it ends, are one slice. -/
theorem Memory.flatMap_slice (m : Memory) (w n : Nat) :
    ((List.range n).flatMap fun p => m.slice (p * w) w) = m.slice 0 (n * w) := by
  induction n with
  | zero => simp [slice]
  | succ n ih => simp [List.range_succ, ih, Nat.succ_mul, slice_add]

/-- The data bytes of a FLUSH are FB[0] to FB[FB_SIZE-1] in order (R108 item 1). -/
theorem dataBytes_flushRequests {c : Config} (hc : c.valid = true) (m : Memory) :
    dataBytes (flushRequests c m) = (List.range c.fbSize).map m.read := by
  calc dataBytes (flushRequests c m)
      = (List.range c.pages).flatMap fun p => m.slice (p * c.width) c.width := by
        simp only [flushRequests, dataBytes_flatMap, dataBytes_pageRequests]
    _ = m.slice 0 (c.pages * c.width) := Memory.flatMap_slice m c.width c.pages
    _ = (List.range c.fbSize).map m.read := by rw [Memory.slice_zero_eq_map_read, Config.fbSize_eq hc]

/-- Settles O42: the pages' slices make up the framebuffer, and a framebuffer byte's bits are its pixels. -/
theorem flushRoundTrip : Obligations.FlushRoundTrip := by
  intro c m hc
  refine ⟨dataBytes_flushRequests hc m, fun p x b hp hx hb => ?_⟩
  rw [dataBytes_flushRequests hc, getPixel_mul_add hc m hp hx hb]
  simp [List.getElem?_range (mul_width_add_lt_fbSize hc hp hx)]

end Sys2Proof.Machine
end

section
/-! SUPPORT. Encoding (30_encoding.md): what the decoder answers row by row (R55, R60), and the encoder as its inverse (R52,
R59). -/

namespace Sys2Proof

open Machine

/-! The must-be-zero fields of an operand: what is left of the field is the operand (R56, R58). -/

theorem argOfOn_of_reserved {a : Byte} (h : a &&& 0xFE#8 = 0#8) : argOfOn (a.getLsbD 0) = a := by
  have hbits : ∀ i, 1 ≤ i → i < 8 → a.getLsbD i = false := by
    intro i h1 h8
    have := congrArg (fun v : Byte => v.getLsbD i) h
    interval_cases i <;> simpa using this
  ext i hi
  cases i with
  | zero => exact argOfOn_getElem_zero _
  | succ i =>
    rw [← BitVec.getLsbD_eq_getElem, ← BitVec.getLsbD_eq_getElem, hbits (i + 1) (by omega) hi]
    cases a.getLsbD 0 <;> simp [argOfOn]

theorem setWidth_of_count_reserved {l : Half} (h : l &&& 0xFF00#16 = 0#16) : (l.extractLsb' 0 8).setWidth 16 = l := by
  ext i hi
  rcases Nat.lt_or_ge i 8 with h8 | h8
  · simp [h8, BitVec.getLsbD_eq_getElem hi]
  · have := congrArg (fun v : Half => v.getLsbD i) h
    interval_cases i <;> simpa using this.symm

theorem extractLsb'_setWidth_count (n : Byte) : (n.setWidth 16).extractLsb' 0 8 = n := by
  ext i hi
  simp [hi, show i < 16 by omega]

/-- A word is the one packed from some fields when it has these fields (R52). -/
theorem eq_packWord_iff {w : Word64} {opc : Byte} {x y len : Half} {arg : Byte} :
    w = packWord opc x y len arg ↔
      opcField w = opc ∧ xField w = x ∧ yField w = y ∧ lenField w = len ∧ argField w = arg := by
  rw [← packWord_inj, packWord_fields]

/-! The decoder, by the row of the first word. -/

theorem decode_of_classify {w : Word64} {op : Op} (h : classify w = some op) (ws : List Word64) :
    decode (w :: ws) = decodeRow op w ws := by
  rw [decode, h]

theorem decodeStr_of_le {w : Word64} {ws : List Word64} (h : payloadWords (countField w) ≤ ws.length) :
    decodeStr w ws = .command (.str (xField w) (yField w) (countField w) (ws.take (payloadWords (countField w))))
      (ws.drop (payloadWords (countField w))) := if_pos h

theorem decodeStr_of_lt {w : Word64} {ws : List Word64} (h : ws.length < payloadWords (countField w)) :
    decodeStr w ws = .incomplete := if_neg (Nat.not_le.2 h)

/-- A row delivers no illegal word (R65). -/
theorem decodeRow_ne_illegal {op : Op} {w : Word64} {ws rest : List Word64} {why : Illegality} :
    decodeRow op w ws ≠ .illegal why rest := by
  intro h
  cases op with
  | str =>
    rw [decodeRow, decodeStr] at h
    split at h <;> cases h
  | _ => cases h

/-- The decoder answers an illegal word exactly when it matches no row, and takes it alone (R60, R65). -/
theorem decode_illegal_iff {w : Word64} {ws rest : List Word64} {why : Illegality} :
    decode (w :: ws) = .illegal why rest ↔ classify w = none ∧ illegality w = why ∧ ws = rest := by
  cases h : classify w with
  | none => simp [decode, h]
  | some op => simp [decode_of_classify h, decodeRow_ne_illegal]

/-! Decode and encode. -/

/-- A command's encoding decodes to it, and the words after it stay (R59, R60). -/
theorem decode_encode {i : Instr} (hi : i.framed = true) (rest : List Word64) :
    decode (encode i ++ rest) = .command i rest := by
  cases i with
  | clear => exact decode_of_classify Laws.Row.clear rest
  | setpx x y on => exact (decode_of_classify (Laws.Row.setpx x y on) rest).trans (by simp [decodeRow, Laws.rowOf])
  | getpx x y => exact (decode_of_classify (Laws.Row.getpx x y) rest).trans (by simp [decodeRow, Laws.rowOf])
  | hline x y len on => exact (decode_of_classify (Laws.Row.hline x y len on) rest).trans (by simp [decodeRow, Laws.rowOf])
  | vline x y len on => exact (decode_of_classify (Laws.Row.vline x y len on) rest).trans (by simp [decodeRow, Laws.rowOf])
  | char x y ch => exact (decode_of_classify (Laws.Row.char x y ch) rest).trans (by simp [decodeRow, Laws.rowOf])
  | str x y n payload =>
    have hlen : payloadWords n = payload.length := (beq_iff_eq.1 hi).symm
    have hcount : countField (packWord 0x07#8 x y (n.setWidth 16) 0#8) = n := by
      rw [countField_packWord, extractLsb'_setWidth_count]
    refine (decode_of_classify (Laws.Row.str x y n payload) (payload ++ rest)).trans ?_
    rw [Laws.rowOf, decodeRow, decodeStr_of_le (by simp [hcount, hlen]), hcount, hlen]
    simp
  | init => exact decode_of_classify Laws.Row.init rest
  | flush => exact decode_of_classify Laws.Row.flush rest
  | status => exact decode_of_classify Laws.Row.status rest

/-- The command a row delivers encodes to the words it was read from: each field of the word is an operand, or zero by the
row's must-be-zero fields (R52, R55, R60). -/
theorem encode_of_decodeRow {op : Op} {w : Word64} {ws rest : List Word64} {i : Instr} (hcode : opcField w = op.code)
    (hfields : op.fieldsOk w) (h : decodeRow op w ws = .command i rest) : w :: ws = encode i ++ rest := by
  cases op with
  | setpx =>
    obtain ⟨hlen, harg⟩ := hfields
    cases h
    exact congrArg (· :: ws) (eq_packWord_iff.2 ⟨hcode, rfl, rfl, hlen, by rw [onField_eq, argOfOn_of_reserved harg]⟩)
  | getpx =>
    cases h
    exact congrArg (· :: ws) (eq_packWord_iff.2 ⟨hcode, rfl, rfl, hfields⟩)
  | hline | vline =>
    cases h
    exact congrArg (· :: ws) (eq_packWord_iff.2 ⟨hcode, rfl, rfl, rfl, by rw [onField_eq, argOfOn_of_reserved hfields]⟩)
  | char =>
    cases h
    exact congrArg (· :: ws) (eq_packWord_iff.2 ⟨hcode, rfl, rfl, hfields, rfl⟩)
  | str =>
    obtain ⟨hlen, harg⟩ := hfields
    have hw : w = packWord 0x07#8 (xField w) (yField w) ((countField w).setWidth 16) 0#8 :=
      eq_packWord_iff.2 ⟨hcode, rfl, rfl, by rw [countField_eq, setWidth_of_count_reserved hlen], harg⟩
    rw [decodeRow, decodeStr] at h
    split at h
    · cases h
      rw [encode, ← hw, List.cons_append, List.take_append_drop]
    · cases h
  | clear | init | flush | status =>
    cases h
    exact congrArg (· :: ws) (eq_packWord_iff.2 ⟨hcode, hfields⟩)

/-- Words that decode to a command begin with its encoding, framed or not (R60). -/
theorem encode_of_decode {i : Instr} {ws rest : List Word64} (h : decode ws = .command i rest) :
    ws = encode i ++ rest := by
  cases ws with
  | nil => cases h
  | cons w ws =>
    cases hc : classify w with
    | none => simp [decode, hc] at h
    | some op =>
      obtain ⟨hcode, hfields⟩ := classify_eq_some.1 hc
      exact encode_of_decodeRow hcode hfields (decode_of_classify hc ws ▸ h)

/-- Settles O13: the two directions are `encode_of_decode` and `decode_encode`. -/
theorem decodeAndEncodeAgree : Obligations.DecodeAndEncodeAgree := by
  intro i ws rest hi
  constructor
  · exact encode_of_decode
  · rintro rfl
    exact decode_encode hi rest

theorem decode_of_eq_encode {i : Instr} {ws : List Word64} (hi : i.framed = true) (h : ws = encode i) :
    decode ws = .command i [] := by
  rw [h, ← List.append_nil (encode i), decode_encode hi]

/-- Settles O15: each row of R72 is the encoding of its command. -/
theorem workedEncodings : Obligations.WorkedEncodings := by
  refine ⟨?_, ?_, ?_, ?_, ?_, ?_, ?_, ?_, ?_, ?_, ?_, ?_⟩ <;> exact decode_of_eq_encode rfl (by decide)

/-! The opcode map. -/

theorem accepts_eq_true_iff {r : OpRow} {w : Word64} : r.accepts w = true ↔ w &&& r.mask = r.value := beq_iff_eq

/-- No two rows have the same opcode (R54). -/
theorem opcodeTable_code_inj : ∀ r ∈ opcodeTable, ∀ r' ∈ opcodeTable, r.op.code = r'.op.code → r = r' := by decide

theorem classify_eq_none {w : Word64} : classify w = none ↔ ∀ r ∈ opcodeTable, w &&& r.mask ≠ r.value := by
  simp only [classify, Option.map_eq_none_iff, List.find?_eq_none, accepts_eq_true_iff, ne_eq]

/-- The assigned opcodes, 0x01 to 0x0A (R54). -/
theorem opcodeTable_opcodes :
    opcodeTable.map (fun r => opcField r.value) = (List.range' 1 10).map (BitVec.ofNat 8) := by decide

/-- An illegal word is unassigned when its opcode is outside 0x01 to 0x0A (R65). -/
theorem illegality_eq_unassignedOpcode {w : Word64} :
    illegality w = .unassignedOpcode ↔ (opcField w).toNat = 0 ∨ 0x0B ≤ (opcField w).toNat := by
  have hany : (opcodeTable.any fun r => opcField r.value == opcField w) = true ↔
      1 ≤ (opcField w).toNat ∧ (opcField w).toNat < 11 := by
    calc (opcodeTable.any fun r => opcField r.value == opcField w) = true
        ↔ opcField w ∈ opcodeTable.map fun r => opcField r.value := by simp
      _ ↔ 1 ≤ (opcField w).toNat ∧ (opcField w).toNat < 11 := by
        rw [opcodeTable_opcodes, List.mem_map]
        constructor
        · rintro ⟨k, hk, heq⟩
          rw [List.mem_range'_1] at hk
          rw [← heq, BitVec.toNat_ofNat]
          omega
        · exact fun h => ⟨(opcField w).toNat, List.mem_range'_1.2 h, BitVec.ofNat_toNat _ _ |>.trans (BitVec.setWidth_eq _)⟩
  unfold illegality
  split
  case isTrue h =>
    have := hany.1 h
    simp only [reduceCtorEq, false_iff]
    omega
  case isFalse h =>
    have := mt hany.2 h
    simp only [true_iff]
    omega

/-- Settles O14: the row is fixed by the opcode, and the decoder rejects exactly what `classify` does. -/
theorem wordsMatchAtMostOneRow : Obligations.WordsMatchAtMostOneRow := by
  intro w ws
  refine ⟨fun r r' hr hr' h h' => ?one, ?none, fun why rest h => ?why⟩
  case one =>
    have hcode := ((opcodeTable_row r hr w).1 (accepts_eq_true_iff.2 h)).1
    have hcode' := ((opcodeTable_row r' hr' w).1 (accepts_eq_true_iff.2 h')).1
    exact opcodeTable_code_inj r hr r' hr' (hcode.symm.trans hcode')
  case none => simp [decode_illegal_iff, classify_eq_none]
  case why =>
    obtain ⟨-, rfl, rfl⟩ := decode_illegal_iff.1 h
    exact ⟨rfl, illegality_eq_unassignedOpcode⟩

end Sys2Proof
end

section
/-! SUPPORT. The text of an STR (R58, R59). -/

namespace Sys2Proof.Machine

/-- The character count of a text fits its field (R58). -/
theorem toNat_ofNat_length {text : List Byte} (h : text.length ≤ 255) :
    (BitVec.ofNat 8 text.length).toNat = text.length := Nat.mod_eq_of_lt (by omega)

/-- A packed text comes back as the text (R59). -/
theorem textOf_packPayload {n : Byte} {text : List Byte} (hn : n.toNat = text.length) :
    textOf n (packPayload ((text.length + 7) / 8) text) = text := by
  refine List.ext_getElem (by rw [length_textOf, hn]) fun m _ hm => ?_
  simp only [textOf, List.getElem_map, List.getElem_range]
  rw [payloadByte_pack _ _ _ (by omega), List.getD_eq_getElem _ _ hm]

/-- A packed text has zero padding (R59). -/
theorem badPadding_packPayload {n : Byte} {text : List Byte} (hn : n.toNat = text.length) :
    badPadding n (packPayload ((text.length + 7) / 8) text) = false := by
  rw [badPadding, List.any_eq_false]
  intro m hm
  rw [List.mem_range, payloadWords, hn] at hm
  by_cases hlen : text.length ≤ m
  · simp [payloadByte_pack _ _ _ hm, hlen]
  · simp [hn, hlen]

/-- Character `m` of an STR is byte `m` of its payload (R59). -/
theorem textOf_getElem? {n : Byte} {payload : List Word64} {m : Nat} (h : m < n.toNat) :
    (textOf n payload)[m]? = some (payloadByte payload m) := by
  simp [textOf, h]

/-- Byte `8k + j` of a payload is byte `j` of word `k`, as a number (R59). -/
theorem payloadByte_toNat {payload : List Word64} {k j : Nat} {w : Word64} (hw : payload[k]? = some w) (hj : j < 8) :
    (payloadByte payload (8 * k + j)).toNat = w.toNat / 256 ^ j % 256 := by
  have hdiv : (8 * k + j) / 8 = k := by omega
  have hmod : (8 * k + j) % 8 = j := by omega
  rw [payloadByte, hdiv, hmod, List.getD_eq_getElem?_getD, hw, Option.getD_some, BitVec.extractLsb'_toNat,
    Nat.shiftRight_eq_div_pow, Nat.pow_mul]

/-- Settles O16: a packed text comes back with zero padding, and a character is a byte of its word. -/
theorem strCarriesItsText : Obligations.StrCarriesItsText := by
  refine ⟨fun x y text hlen => ?made, fun n payload k j w hw hj hlt => ?carried⟩
  case made =>
    have hn := toNat_ofNat_length hlen
    refine ⟨_, _, rfl, hn, packPayload_length _ _, ?_, textOf_packPayload hn⟩
    simp [Instr.wellFormed, Instr.framed, Instr.padded, Instr.strOf, badPadding_packPayload hn, packPayload_length,
      payloadWords, hn]
  case carried => exact ⟨_, textOf_getElem? hlt, payloadByte_toNat hw hj⟩

end Sys2Proof.Machine
end

section
/-! SUPPORT. The transfers of a request (R67, R70). -/

namespace Sys2Proof.Machine

theorem map_byte_beatsOf (c : Config) (kind : BitVec 1) (bytes : List Byte) :
    (beatsOf c kind bytes).map (·.byte) = bytes := by
  fun_induction beatsOf with
  | case1 => rfl
  | case2 => rfl
  | case3 b bs hne ih => rw [List.map_cons, ih]

/-- `tx_last` is 1 on the last transfer only (R70). -/
theorem map_last_beatsOf (c : Config) (kind : BitVec 1) {bytes : List Byte} (hne : bytes ≠ []) :
    (beatsOf c kind bytes).map (·.last) = List.replicate (bytes.length - 1) false ++ [true] := by
  fun_induction beatsOf with
  | case1 => exact absurd rfl hne
  | case2 => rfl
  | case3 b bs hbs ih =>
    cases bs with
    | nil => exact absurd rfl hbs
    | cons b' bs => rw [List.map_cons, ih (List.cons_ne_nil b' bs)]; rfl

/-- Kind, address and timeout are constant through a request (R70). -/
theorem beatsOf_constant (c : Config) (kind : BitVec 1) (bytes : List Byte) :
    ∀ b ∈ beatsOf c kind bytes, b.kind = kind ∧ b.addr = c.devAddr ∧ b.timeout = c.timeout := by
  fun_induction beatsOf with
  | case1 => simp
  | case2 b => simp
  | case3 b bs hne ih => exact List.forall_mem_cons.2 ⟨⟨rfl, rfl, rfl⟩, ih⟩

/-- Settles O20, one lemma about `beatsOf` for each clause. -/
theorem transfersCarryThePayload : Obligations.TransfersCarryThePayload := by
  intro c req hne
  refine ⟨map_byte_beatsOf c _ _, map_last_beatsOf c _ hne, fun b hb => ?_⟩
  obtain ⟨hkind, haddr, htimeout⟩ := beatsOf_constant c _ _ b hb
  refine ⟨haddr, htimeout, hkind.trans ?_⟩
  cases req <;> rfl

end Sys2Proof.Machine
end

section
/-! SUPPORT. The response word and its handshake (R62, R70, R127, R133). -/

namespace Sys2Proof.Machine

/-! The response word. -/

theorem responseWord_code (code : RspCode) (data : BitVec 16) : (responseWord code data).extractLsb' 28 4 = code.bits :=
  extract_high code.bits (0#12 ++ data)

/-- The response word is `CODE * 2^28 + DATA` (R62). -/
theorem responseWord_toNat (code : RspCode) (data : BitVec 16) :
    (responseWord code data).toNat = code.bits.toNat * 2 ^ 28 + data.toNat := by
  have hlow : (0#12 ++ data).toNat = data.toNat := by
    rw [BitVec.toNat_append, BitVec.toNat_ofNat, Nat.zero_mod, Nat.zero_shiftLeft, Nat.zero_or]
  rw [responseWord, BitVec.toNat_append, ← Nat.shiftLeft_add_eq_or_of_lt (BitVec.isLt _), Nat.shiftLeft_eq, hlow]

/-! One response per command. -/

/-- A command that no reset met has answered once, and no response was taken meanwhile (R62). -/
theorem exec_responded {i : Instr} {s t : State} (h : exec i s = .next t) (hres : t.resets = s.resets) :
    ∃ code data, s.responded t code data := by
  rcases exec_next_cases h with ⟨-, -, hresp⟩ | ⟨sent, rest, d, -, -, rfl, -⟩
  · exact hresp
  · exact absurd hres (applyReset_resets_ne (s.afterTransport sent none _ d 0))

/-- An illegal word that no reset met has answered once (R65, R115). -/
theorem rejectWord_responded {s : State} (hres : s.rejectWord.resets = s.resets) :
    s.responded s.rejectWord .illegal 0#16 := by
  rcases rejectWord_cases s with ⟨-, h⟩ | ⟨-, h⟩ <;> rw [h] at hres ⊢
  · exact absurd hres (abandon_resets_ne s)
  · exact ⟨rfl, rfl⟩

/-- A step that no reset meets, with no response on offer before it, offers none when the words are no whole command, and
otherwise exactly one (R62). -/
theorem step_response {s t : State} (hr : s.rstPin = false) (hq : s.rsp = none) (h : step s = .next t)
    (hres : t.resets = s.resets) :
    ((decode s.words = .noWord ∨ decode s.words = .incomplete) ∧ t.rsp = none ∧ t.rspOut = s.rspOut)
      ∨ (decode s.words ≠ .noWord ∧ decode s.words ≠ .incomplete ∧ ∃ code data, s.responded t code data) := by
  rw [step_of_decode (step_next_cases h).1 hr hq] at h
  cases hd : decode s.words with
  | noWord =>
    rw [hd] at h
    cases h
    exact .inl ⟨.inl rfl, hq, rfl⟩
  | incomplete =>
    rw [hd] at h
    cases h
    exact .inl ⟨.inr rfl, by rw [State.collect_rsp, hq], State.collect_rspOut s⟩
  | illegal why rest =>
    rw [hd] at h
    cases h
    exact .inr ⟨nofun, nofun, _, _, rejectWord_responded (s := s.consume rest) hres⟩
  | command i rest =>
    simp only [hd] at h
    split at h
    · cases h
      exact absurd hres (abandon_resets_ne (s.consume rest))
    · exact .inr ⟨nofun, nofun, exec_responded (s := s.consume rest) h hres⟩

/-- Settles O19: `step_response`, with the fields of `responseWord`. -/
theorem exactlyOneResponsePerCommand : Obligations.ExactlyOneResponsePerCommand := by
  intro s t hr hq h hres
  rcases step_response hr hq h hres with ⟨hd, hnone, hout⟩ | ⟨hnoWord, hincomplete, code, data, hrsp, hout⟩
  · exact ⟨fun hnoWord hincomplete => (hd.elim hnoWord hincomplete).elim, fun _ => hnone, hout⟩
  · exact ⟨fun _ _ => ⟨_, code, data, hrsp, responseWord_code code data, responseWord_reserved code data,
      responseWord_toNat code data⟩, fun hd => (hd.elim hnoWord hincomplete).elim, hout⟩

/-! The handshakes. -/

/-- Settles O52: the step is `offerResponse`. -/
theorem responseIsHeldUntilTaken : Obligations.ResponseIsHeldUntilTaken := by
  intro s w hv hr hq
  have hstep : step s = .next (if s.rspReady = true then { s with rsp := none, rspOut := s.rspOut ++ [w] } else s) := by
    rw [step_of_response hv hr (by simp [hq]), offerResponse_of_some hq]
  refine ⟨by simp [State.rspValid, hr, hq], by simp [State.cmdReady, hq], fun hready => ?held, fun hready => ?taken⟩
  case held => simpa [hready] using hstep
  case taken => exact ⟨_, by simpa [hready] using hstep, rfl, by simp [State.cmdReady, hr]⟩

/-- No command takes a response word (R70). -/
theorem exec_rspOut {i : Instr} {s t : State} (h : exec i s = .next t) : t.rspOut = s.rspOut := by
  rcases exec_next_cases h with ⟨-, -, code, data, -, hout⟩ | ⟨sent, rest, d, -, -, rfl, -⟩
  · exact hout
  · rfl

@[simp] theorem State.rejectWord_rspOut (s : State) : s.rejectWord.rspOut = s.rspOut := by
  rcases rejectWord_cases s with ⟨-, h⟩ | ⟨-, h⟩ <;> simp [h]

/-- With no response on offer a step takes none, reset or not (R70). -/
theorem step_rspOut_of_none {s t : State} (hq : s.rsp = none) (h : step s = .next t) : t.rspOut = s.rspOut := by
  obtain ⟨-, ⟨-, rfl⟩ | ⟨-, hq', -⟩ | ⟨-, -, hcases⟩⟩ := step_next_cases h
  · simp
  · simp [hq] at hq'
  · rcases hcases with ⟨-, rfl⟩ | ⟨-, rfl⟩ | ⟨why, rest, -, rfl⟩ | ⟨i, rest, -, -, rfl⟩ | ⟨i, rest, -, -, hexec⟩
    · rfl
    · simp
    · simp
    · simp
    · exact exec_rspOut (s := s.consume rest) hexec

/-- The two outputs are never both 1 (R70). -/
theorem rspValid_of_cmdReady {s : State} (h : s.cmdReady = true) : s.rspValid = false := by
  simp only [State.cmdReady, Bool.and_eq_true, Option.isNone_iff_eq_none] at h
  simp [State.rspValid, h.2]

/-- `rst` holds both outputs at 0 (R127). -/
theorem cmdReady_rspValid_of_rstPin {s : State} (h : s.rstPin = true) : s.cmdReady = false ∧ s.rspValid = false := by
  simp [State.cmdReady, State.rspValid, h]

/-- Settles O53: by what the machine does between commands: a reset, a response on offer, or neither. -/
theorem wordsPassOnlyByHandshake : Obligations.WordsPassOnlyByHandshake := by
  intro s t h
  suffices hstep : (t.cmdIn ≠ s.cmdIn → s.cmdReady = true)
      ∧ (t.rspOut ≠ s.rspOut → s.rspValid = true ∧ s.rspReady = true ∧ ∃ w, s.rsp = some w ∧ t.rspOut = s.rspOut ++ [w])
      ∧ (∀ w, s.rsp = some w → t.rsp = some w ∨ t.rspOut = s.rspOut ++ [w] ∨ t.resets = s.resets + 1) by
    obtain ⟨hcmd, hout, hkept⟩ := hstep
    exact ⟨hcmd, hout, hkept, rspValid_of_cmdReady, cmdReady_rspValid_of_rstPin⟩
  obtain ⟨-, ⟨-, rfl⟩ | ⟨hr, hq, rfl⟩ | ⟨hr, hq, -⟩⟩ := step_next_cases h
  · exact ⟨fun hne => absurd rfl hne, fun hne => absurd rfl hne, fun _ _ => .inr (.inr rfl)⟩
  · obtain ⟨w, hw⟩ := Option.isSome_iff_exists.1 hq
    rw [offerResponse_of_some hw]
    cases hready : s.rspReady <;> simp [State.rspValid, hr, hw]
  · exact ⟨fun _ => by simp [State.cmdReady, hr, hq], fun hne => absurd (step_rspOut_of_none hq h) hne,
      fun w hw => by simp [hq] at hw⟩

end Sys2Proof.Machine
end

section
/-! SUPPORT. An unfinished payload is collected and nothing is lost (R60, R61, R140). -/

namespace Sys2Proof.Machine

/-! The characters that have come. -/

/-- While the payload is unfinished, all its characters are of the text (R59, R61). -/
theorem length_receivedText {n : Byte} {ws : List Word64} (h : ws.length < payloadWords n) :
    (receivedText n ws).length = 8 * ws.length := by
  rw [payloadWords] at h
  rw [receivedText, List.length_take, length_textOf]
  omega

theorem receivedText_getElem? {n : Byte} {ws : List Word64} (h : ws.length < payloadWords n) {k : Nat}
    (hk : k < 8 * ws.length) : (receivedText n ws)[k]? = some (payloadByte ws k) := by
  rw [payloadWords] at h
  rw [receivedText, List.getElem?_take_of_lt hk, textOf_getElem? (by omega)]

theorem length_receivedText_append_le (n : Byte) (ws more : List Word64) :
    (receivedText n ws).length ≤ (receivedText n (ws ++ more)).length := by
  simp only [receivedText, List.length_take, length_textOf, List.length_append]
  omega

theorem length_receivedText_le_textOf (n : Byte) (ws payload : List Word64) :
    (receivedText n ws).length ≤ (textOf n payload).length := by
  rw [receivedText, List.length_take, length_textOf, length_textOf]
  exact Nat.min_le_right _ _

/-- TXT after a text is loaded (R90). -/
theorem loadText_getElem?_of_le (s : State) {text : List Byte} {k : Nat} (h : text.length ≤ k) :
    (s.loadText text).txt[k]? = s.txt[k]? := by
  rw [State.loadText_txt, List.getElem?_append_right h, List.getElem?_drop, Nat.add_sub_cancel' h]

theorem loadText_getElem?_of_lt (s : State) {text : List Byte} {k : Nat} (h : k < text.length) :
    (s.loadText text).txt[k]? = text[k]? := by
  rw [State.loadText_txt, List.getElem?_append_left h]

/-! Going on with what was collected. -/

/-- The state in the middle of an STR payload, its words still on the channel: the header's fields are loaded, and a first
part of the text (R53, R90). -/
def State.collected (s : State) (w : Word64) (first : List Byte) : State :=
  (s.loadOperands (xField w) (yField w) (lenField w) (argField w)).loadText first

/-- An STR writes over what had been collected of it (R53, R90). -/
theorem strState_collected (s : State) (w : Word64) (x y : Half) {n : Byte} {payload : List Word64} {first : List Byte}
    (h : first.length ≤ (textOf n payload).length) :
    strState x y n payload (s.collected w first) = strState x y n payload s := by
  have hload : ((s.collected w first).loadOperands x y (n.setWidth 16) 0#8).loadText (textOf n payload)
      = (s.loadOperands x y (n.setWidth 16) 0#8).loadText (textOf n payload) :=
    loadText_loadText (s.loadOperands x y (n.setWidth 16) 0#8) h
  rw [strState, strState, hload]
  rfl

/-- `s` with these words taken of a command and these on offer. -/
def State.withWords (s : State) (taken offered : List Word64) : State := { s with pending := taken, cmdIn := offered }

/-- Collecting leaves the state in the middle of the payload, with every word taken (R61). -/
theorem collect_eq_collected {s : State} {w : Word64} {ws : List Word64} (hw : s.words = w :: ws) :
    s.collect = (s.collected w (receivedText (countField w) ws)).withWords (w :: ws) [] := collect_eq hw

/-- Collecting writes over what had been collected before (R53, R90). -/
theorem collected_collected (s : State) (w : Word64) {first text : List Byte} (h : first.length ≤ text.length) :
    (s.collected w first).collected w text = s.collected w text :=
  loadText_loadText (s.loadOperands (xField w) (yField w) (lenField w) (argField w)) h

section
variable {s : State} (hv : s.cfg.valid = true) (hr : s.rstPin = false) (hq : s.rsp = none) {w : Word64}
  {ws taken offered : List Word64} (hop : classify w = some .str) (hwords : taken ++ offered = w :: ws)
include hv hr hq hop hwords

/-! A step on an STR header and any words after it, whichever of them had been taken (R60, R61). -/

/-- With less than the payload there, it collects. -/
theorem step_withWords_of_lt (hlt : ws.length < payloadWords (countField w)) :
    step (s.withWords taken offered)
      = .next ((s.collected w (receivedText (countField w) ws)).withWords (w :: ws) []) := by
  have hd : decode (State.words (s.withWords taken offered)) = .incomplete :=
    (congrArg decode hwords).trans ((decode_of_classify hop ws).trans (decodeStr_of_lt hlt))
  rw [step_of_incomplete (s := s.withWords taken offered) hv hr hq hd,
    collect_eq_collected (s := s.withWords taken offered) hwords]
  rfl

/-- With the whole payload there, it runs the STR or abandons it. -/
theorem step_withWords_of_le (hle : payloadWords (countField w) ≤ ws.length) :
    step (s.withWords taken offered) =
      if s.rstInCmd = true then .next (s.consume (ws.drop (payloadWords (countField w)))).abandon
      else .next (strState (xField w) (yField w) (countField w) (ws.take (payloadWords (countField w)))
        (s.consume (ws.drop (payloadWords (countField w))))) := by
  have hd : decode (State.words (s.withWords taken offered)) = .command _ _ :=
    (congrArg decode hwords).trans ((decode_of_classify hop ws).trans (decodeStr_of_le hle))
  rw [step_of_command (s := s.withWords taken offered) hv hr hq hd]
  rfl

/-- The step does not depend on which words had been taken, nor on what had been collected of them (R53, R90). -/
theorem step_collected {taken' offered' : List Word64} {first : List Byte} (hwords' : taken' ++ offered' = w :: ws)
    (hfirst : first.length ≤ (receivedText (countField w) ws).length) :
    step ((s.collected w first).withWords taken offered) = step (s.withWords taken' offered') := by
  rcases Nat.lt_or_ge ws.length (payloadWords (countField w)) with hlt | hle
  · rw [step_withWords_of_lt (s := s.collected w first) hv hr hq hop hwords hlt,
      step_withWords_of_lt hv hr hq hop hwords' hlt, collected_collected s w hfirst]
  · rw [step_withWords_of_le (s := s.collected w first) hv hr hq hop hwords hle,
      step_withWords_of_le hv hr hq hop hwords' hle]
    -- an abandoned state keeps nothing of what was collected, and a finished STR writes over it
    have hstr := strState_collected (s.consume (ws.drop (payloadWords (countField w)))) w (xField w) (yField w)
      (n := countField w) (payload := ws.take (payloadWords (countField w)))
      (hfirst.trans (length_receivedText_le_textOf _ _ _))
    rw [← hstr]
    rfl

end

/-- Settles O18: the step is `collect`, and the next one by `step_collected`. -/
theorem collectingLosesNothing : Obligations.CollectingLosesNothing := by
  intro s w ws hv hr hq hwords hd
  have hw : s.words = w :: ws := hwords
  obtain ⟨_, _, heq, hop, hlt⟩ := decode_incomplete hd
  cases heq
  refine ⟨s.collect, step_of_incomplete hv hr hq (by rw [hw, hd]), ?_⟩
  rw [collect_eq_collected hw]
  refine ⟨rfl, ⟨rfl, rfl, rfl, rfl⟩, fun k hk => ?come, fun k hk => ?kept, fun more => ?more⟩
  case come =>
    exact (loadText_getElem?_of_lt _ (by rwa [length_receivedText hlt])).trans (receivedText_getElem? hlt hk)
  case kept => exact loadText_getElem?_of_le _ (by rwa [length_receivedText hlt])
  case more =>
    refine step_collected (taken := w :: ws) hv hr hq hop (List.cons_append ..)
      (taken' := s.pending) (offered' := s.cmdIn ++ more) ?_ (length_receivedText_append_le _ _ _)
    rw [← List.append_assoc, hwords, List.cons_append]

end Sys2Proof.Machine
end

section
/-! SUPPORT. Illegal commands (R59, R65, R115): an illegal word, and an STR with bad padding. -/

namespace Sys2Proof.Machine

/-- An STR with bad padding loads its operands and its text, and raises Illegal (R59, R90, R115). -/
theorem strState_of_badPadding (x y : Half) {n : Byte} {payload : List Word64} (s : State)
    (h : badPadding n payload = true) :
    strState x y n payload s
      = ((s.loadOperands x y (n.setWidth 16) 0#8).loadText (textOf n payload)).raiseIllegal := if_pos h

theorem strState_txt_of_badPadding (x y : Half) {n : Byte} {payload : List Word64} (s : State)
    (h : badPadding n payload = true) : (strState x y n payload s).txt = textOf n payload ++ s.txt.drop n.toNat := by
  rw [strState_of_badPadding x y s h, State.raiseIllegal_txt, State.loadText_txt, length_textOf]
  rfl

/-- Settles O47: the state is `raiseIllegal` on the loaded one. -/
theorem strWithBadPaddingIsIllegal : Obligations.StrWithBadPaddingIsIllegal := by
  intro s x y n payload hbad
  refine ⟨strState x y n payload s, rfl, ?_⟩
  have htxt := strState_txt_of_badPadding x y s hbad
  rw [strState_of_badPadding x y s hbad] at htxt ⊢
  exact ⟨rfl, rfl, rfl, rfl, htxt, ⟨rfl, rfl, rfl, rfl⟩, rfl, ⟨rfl, rfl, rfl, rfl, rfl, rfl, rfl⟩, ⟨rfl, rfl, rfl, rfl⟩,
    rfl, rfl⟩

/-- Settles O46: an illegal word is `raiseIllegal` on the state without it, and an STR with bad padding is O47. -/
theorem illegalCommandsDoNothing : Obligations.IllegalCommandsDoNothing := by
  intro s hv hr hq hc hcases
  rcases hcases with ⟨why, rest, hd⟩ | ⟨x, y, n, payload, rest, hd, hbad⟩
  · refine ⟨(s.consume rest).raiseIllegal, ?_, rfl, rfl, rfl, rfl, ⟨rfl, rfl, rfl, rfl⟩, ⟨rfl, rfl⟩, rfl, rfl,
      fun _ => ⟨⟨rfl, rfl, rfl, rfl⟩, rfl⟩, fun why' rest' hd' => ?_, fun x y n payload rest' hd' => ?_⟩
    · rw [step_of_illegal hv hr hq hd, State.rejectWord, if_neg (by simp [hc])]
    · cases hd.symm.trans hd'
      rfl
    · cases hd.symm.trans hd'
  · obtain ⟨t, ht, hfb, hdcs, hbus, hill, htxt, hops, hctr, ⟨-, hp, -, -, -, hin, -⟩, htr, hrsp⟩ :=
      strWithBadPaddingIsIllegal (s.consume rest) x y n payload hbad
    refine ⟨t, ?_, hill, hfb, hdcs, hbus, htr, hrsp, hp, hctr, ?_, fun why' rest' hd' => ?_,
      fun x' y' n' payload' rest' hd' => ?_⟩
    · rw [step_of_command hv hr hq hd, if_neg (by simp [hc]), ht]
    · rintro ⟨why', rest', hd'⟩
      cases hd.symm.trans hd'
    · cases hd.symm.trans hd'
    · cases hd.symm.trans hd'
      exact ⟨hin, hops, htxt⟩

end Sys2Proof.Machine
end

section
/-! SUPPORT. FLUSH completes (R104, R107): its requests, its failure count and what it leaves alone. -/

namespace Sys2Proof.Machine

/-- A framed command of one word is that word, whatever follows it (R60). -/
theorem hasWord_of_encode {i : Instr} {w : Word64} (hi : i.framed = true) (h : encode i = [w]) : hasWord i w := by
  intro rest
  rw [← List.singleton_append, ← h]
  exact decode_encode hi rest

/-- FLUSH has a request to send, since a panel has a page (R6, R104). -/
theorem flushRequests_ne_nil {c : Config} (hc : c.valid = true) (m : Memory) : flushRequests c m ≠ [] := by
  intro h
  have hpage := List.flatMap_eq_nil_iff.1 h 0 (List.mem_range.2 (Config.pages_pos hc))
  simp [pageRequests] at hpage

/-- `s` after `reqs` were sent and each was answered, F their saturated failure count (R64, R95). -/
def State.afterAnswers (s : State) (reqs : List Request) : State :=
  s.afterTransport reqs none (s.trIn.drop reqs.length) (s.trDraw + (reqs.length - s.trIn.length))
    (min (s.failures reqs.length) 65535)

theorem runTransfer_of_answers_of_ne_nil {reqs : List Request} {finish : State → State} {s : State} (hne : reqs ≠ [])
    (h : s.transportAnswers reqs.length = true) : runTransfer reqs finish s = .next (finish (s.afterAnswers reqs)) := by
  rw [runTransfer_of_answers h, if_neg hne]
  rfl

/-- The end of a transfer with `n` failures reports them (R22, R64, R104). -/
theorem finishTransfer_of_failures {s : State} {n : Nat} (h : s.ctr.f = min n 65535) :
    s.finishTransfer.busErr = (s.busErr || n != 0)
      ∧ s.responded s.finishTransfer (if n = 0 then .ok else .busFail) (BitVec.ofNat 16 (min n 65535)) := by
  have hzero : s.ctr.f = 0 ↔ n = 0 := by omega
  have hbne : (s.ctr.f != 0) = (n != 0) := by rw [Bool.eq_iff_iff, bne_iff_ne, bne_iff_ne, ne_eq, hzero]
  refine ⟨by rw [State.finishTransfer_busErr, hbne], ?_, rfl⟩
  rw [State.finishTransfer_rsp, ← h]
  simp only [hzero]

/-- Settles O39: FLUSH is `leavePC` and `finishTransfer` on the state after its answered requests. -/
theorem flushSendsThePages : Obligations.FlushSendsThePages := by
  refine ⟨hasWord_of_encode rfl rfl, fun s hv hans => ?_⟩
  have hrun := runTransfer_of_answers_of_ne_nil (s := s.loadOperands 0#16 0#16 0#16 0#8)
    (finish := fun t => t.leavePC.finishTransfer) (flushRequests_ne_nil hv s.fb) hans
  obtain ⟨hbus, hrsp⟩ := finishTransfer_of_failures
    (s := ((s.loadOperands 0#16 0#16 0#16 0#8).afterAnswers (flushRequests s.cfg s.fb)).leavePC) rfl
  exact ⟨_, hrun, rfl, rfl, hbus, rfl, rfl, freeCounter_lt _ 4 (Config.pages_pos hv),
    freeCounter_lt _ 5 (Config.width_pos hv), hrsp, fun _ => rfl, ⟨rfl, rfl, rfl, rfl⟩, rfl,
    ⟨rfl, rfl, rfl, rfl, rfl, rfl, rfl⟩, rfl, rfl⟩

end Sys2Proof.Machine
end

section
/-! SUPPORT. SetPixel bit by bit and the laws of R79: a write reads back, twice is once, and CLEAR turns every pixel off. -/

namespace Sys2Proof.Machine

/-- In bounds, SetPixel gives one bit of one byte its new value, and every other bit of every byte stays (R73). -/
theorem getLsbD_read_setPixel {c : Config} {x y : Int} (on : Bool) {m : Memory} (hm : m.wf c.fbSize = true)
    (h : inBounds c x y = true) (a : Nat) {b : Nat} (hb : b < 8) :
    ((setPixel c x y on m).read a).getLsbD b
      = if a = byteIndex c x y ∧ b = bitNo y then on else (m.read a).getLsbD b := by
  rw [setPixel, if_pos h, Memory.read_write hm]
  by_cases ha : a = byteIndex c x y
  · rw [if_pos ha, putBit_getLsbD _ on (bitNo_lt y) hb, ← ha]
    simp only [true_and]
  · rw [if_neg ha, if_neg fun hab => ha hab.1]

/-- Settles O21: in bounds it is `getLsbD_read_setPixel`, out of bounds `setPixel_out`. -/
theorem setPixelChangesOneBit : Obligations.SetPixelChangesOneBit := by
  intro c m x y on _ hm
  exact ⟨fun h a b hb => getLsbD_read_setPixel on hm h a hb, setPixel_out on m⟩

/-- SetPixel twice with one value is SetPixel once (R79 item 1). -/
theorem setPixel_setPixel {c : Config} (hc : c.valid = true) (x y : Int) (v : Bool) {m : Memory}
    (hm : m.wf c.fbSize = true) : setPixel c x y v (setPixel c x y v m) = setPixel c x y v m := by
  have hm' := setPixel_wf hc x y v hm
  cases h : inBounds c x y with
  | false => rw [setPixel_out v _ h]
  | true =>
    refine Memory.ext (setPixel_wf hc x y v hm') hm' fun a => BitVec.eq_of_getLsbD_eq fun b hb => ?_
    rw [getLsbD_read_setPixel v hm' h a hb, getLsbD_read_setPixel v hm h a hb]
    split <;> rfl

/-- After CLEAR every pixel is off, in bounds or not (R79 item 4). -/
theorem getPixel_clearFb (c : Config) (m : Memory) (x y : Int) : getPixel c (clearFb c m) x y = false := by
  rw [getPixel, read_clearFb, BitVec.getLsbD_zero, Bool.and_false]

/-- GetPixel as a number is the byte's bit by division, and 0 out of bounds (R74). -/
theorem toNat_getPixel (c : Config) (m : Memory) (x y : Int) :
    (getPixel c m x y).toNat
      = if inBounds c x y = true then (m.read (byteIndex c x y)).toNat / 2 ^ bitNo y % 2 else 0 := by
  by_cases h : inBounds c x y = true
  · rw [if_pos h, getPixel_of_inBounds m h, ← BitVec.testBit_toNat, Nat.toNat_testBit]
  · rw [if_neg h, getPixel, Bool.eq_false_iff.2 h, Bool.false_and, Bool.toNat_false]

end Sys2Proof.Machine
end

section
/-! SUPPORT. CLEAR, SETPX and GETPX complete (R75 to R77): the state each ends in, and what all three leave alone. -/

namespace Sys2Proof.Machine

/-- `s` with the operand registers loaded and the framebuffer `m`, answering OK: where CLEAR, SETPX and GETPX end. -/
def State.answeredOk (s : State) (x y : Half) (arg : Byte) (m : Memory) (data : BitVec 16) : State :=
  { s.loadOperands x y 0#16 arg with fb := m }.respond .ok data

theorem answeredOk_responded (s : State) (x y : Half) (arg : Byte) (m : Memory) (data : BitVec 16) :
    s.responded (s.answeredOk x y arg m data) .ok data := ⟨rfl, rfl⟩

/-- Only the operand registers, the framebuffer and the response differ. -/
theorem answeredOk_frame (s : State) (x y : Half) (arg : Byte) (m : Memory) (data : BitVec 16) :
    (s.answeredOk x y arg m data).operandsAre x y 0#16 arg ∧ s.sameHidden (s.answeredOk x y arg m data)
      ∧ s.sameStatus (s.answeredOk x y arg m data) ∧ s.sameInputs (s.answeredOk x y arg m data)
      ∧ s.sameTransport (s.answeredOk x y arg m data) :=
  ⟨⟨rfl, rfl, rfl, rfl⟩, ⟨rfl, rfl⟩, ⟨rfl, rfl, rfl⟩, ⟨rfl, rfl, rfl, rfl, rfl, rfl, rfl⟩, rfl, rfl, rfl, rfl⟩

theorem exec_clear (s : State) : exec .clear s = .next (s.answeredOk 0#16 0#16 0#8 (clearFb s.cfg s.fb) 0#16) := rfl

theorem exec_setpx (x y : Half) (on : Bool) (s : State) :
    exec (.setpx x y on) s
      = .next (s.answeredOk x y (argOfOn on) (setPixel s.cfg (coord x) (coord y) on s.fb) 0#16) := rfl

theorem setWidth_ofBool (b : Bool) : (BitVec.ofBool b).setWidth 16 = BitVec.ofNat 16 b.toNat := by cases b <;> rfl

theorem exec_getpx (x y : Half) (s : State) :
    exec (.getpx x y) s
      = .next (s.answeredOk x y 0#8 s.fb (BitVec.ofNat 16 (getPixel s.cfg s.fb (coord x) (coord y)).toNat)) := by
  rw [← setWidth_ofBool]
  rfl

/-- Each of CLEAR, SETPX and GETPX ends in an `answeredOk` state. -/
theorem exec_pixelCommand_eq_answeredOk {i : Instr} {s t : State}
    (hi : i = .clear ∨ (∃ x y v, i = .setpx x y v) ∨ (∃ x y, i = .getpx x y)) (h : exec i s = .next t) :
    ∃ x y arg m data, t = s.answeredOk x y arg m data := by
  rcases hi with rfl | ⟨x, y, v, rfl⟩ | ⟨x, y, rfl⟩
  · exact ⟨_, _, _, _, _, Host.Outcome.next.inj (h.symm.trans (exec_clear s))⟩
  · exact ⟨_, _, _, _, _, Host.Outcome.next.inj (h.symm.trans (exec_setpx x y v s))⟩
  · exact ⟨_, _, _, _, _, Host.Outcome.next.inj (h.symm.trans (exec_getpx x y s))⟩

/-- Settles O22: items 1 and 2 are the two cases of `getPixel_setPixel`, and item 5 the frame of `answeredOk`. -/
theorem pixelLaws : Obligations.PixelLaws := by
  refine ⟨fun c m x y v hc hm => ⟨fun h => ?writeThenRead, setPixel_setPixel hc x y v hm, fun x' y' h' hne => ?frame,
    fun h a => by rw [setPixel_out v m h], getPixel_clearFb c m x y⟩, fun i s t hi h => ?nothingButFb⟩
  case writeThenRead => rw [getPixel_setPixel hm h, if_pos ⟨rfl, rfl⟩]
  case frame => rw [getPixel_setPixel hm h', if_neg hne]
  case nothingButFb =>
    obtain ⟨x, y, arg, m, data, rfl⟩ := exec_pixelCommand_eq_answeredOk hi h
    obtain ⟨-, -, hstatus, -, -, htx, -⟩ := answeredOk_frame s x y arg m data
    exact ⟨hstatus, htx⟩

/-- Settles O25: `getPixel_setPixel` for the pixels and `read_setPixel_ne` for the other bytes. -/
theorem setpxSetsItsPixel : Obligations.SetpxSetsItsPixel := by
  intro s x y on _ hm
  obtain ⟨hops, hhidden, hstatus, hinputs, htransport⟩ :=
    answeredOk_frame s x y (argOfOn on) (setPixel s.cfg (coord x) (coord y) on s.fb) 0#16
  exact ⟨hasWord_of_encode rfl rfl, _, exec_setpx x y on s, fun _ _ h' => getPixel_setPixel hm h',
    fun _ ha => read_setPixel_ne hm ha, hops, hhidden, hstatus, hinputs, htransport, answeredOk_responded ..⟩

/-- Settles O26: the answer is `getPixel` as a number, read as division by `toNat_getPixel`. -/
theorem getpxReadsItsPixel : Obligations.GetpxReadsItsPixel := by
  intro s x y
  refine ⟨hasWord_of_encode rfl rfl, _, exec_getpx x y s, ?_, fun _ => rfl, answeredOk_frame ..⟩
  rw [toNat_getPixel]
  exact answeredOk_responded ..

/-- Settles O23: the framebuffer is `clearFb`, and the rest is the frame of `answeredOk`. -/
theorem clearZeroesEveryByte : Obligations.ClearZeroesEveryByte := by
  refine ⟨hasWord_of_encode rfl rfl, fun s => ⟨_, exec_clear s, read_clearFb s.cfg s.fb, ?_⟩⟩
  obtain ⟨hops, hhidden, hstatus, hinputs, htransport⟩ :=
    answeredOk_frame s 0#16 0#16 0#8 (clearFb s.cfg s.fb) 0#16
  exact ⟨hops, hhidden, hstatus, hinputs, htransport, answeredOk_responded ..⟩

end Sys2Proof.Machine
end

section
/-! SUPPORT. HLINE and VLINE complete (R81, R82): the state each ends in and what both leave alone, and the lines of R85,
one pixel long and across the whole top row. -/

namespace Sys2Proof.Machine

/-- `s` with the operand registers loaded, K left free and the framebuffer `m`, answering OK: where HLINE and VLINE end. -/
def State.lineDrawn (s : State) (x y len : Half) (on : Bool) (m : Memory) : State :=
  { (s.loadOperands x y len (argOfOn on)).leaveK with fb := m }.respond .ok 0#16

/-- Only the operand registers, K and its draw, the framebuffer and the response differ. -/
theorem lineDrawn_frame (s : State) (x y len : Half) (on : Bool) (m : Memory) :
    let t := s.lineDrawn x y len on m
    t.operandsAre x y len (argOfOn on) ∧ t.ctr = { s.ctr with k := t.ctr.k } ∧ t.ctr.k ≤ 65535 ∧ t.txt = s.txt
      ∧ s.sameStatus t ∧ s.sameInputs t ∧ s.sameTransport t ∧ s.responded t .ok 0#16 :=
  ⟨⟨rfl, rfl, rfl, rfl⟩, rfl, freeCounter_le _ 0 65535, rfl, ⟨rfl, rfl, rfl⟩, ⟨rfl, rfl, rfl, rfl, rfl, rfl, rfl⟩,
    ⟨rfl, rfl, rfl, rfl⟩, rfl, rfl⟩

section
variable (x y len : Half) (on : Bool) (s : State)

theorem exec_hline : exec (.hline x y len on) s
    = .next (s.lineDrawn x y len on (drawHline s.cfg (coord x) (coord y) len.toNat on s.fb)) := rfl

theorem exec_vline : exec (.vline x y len on) s
    = .next (s.lineDrawn x y len on (drawVline s.cfg (coord x) (coord y) len.toNat on s.fb)) := rfl

end

/-- Settles O27: `getPixel_drawHline` for the pixels, `read_drawHline_ne` for the other bytes. -/
theorem hlineDrawsItsPixels : Obligations.HlineDrawsItsPixels := by
  intro s x y len on hc hm
  exact ⟨hasWord_of_encode rfl rfl, _, exec_hline x y len on s, fun _ _ h' => getPixel_drawHline hc hm h',
    fun _ ha => read_drawHline_ne hc hm ha, lineDrawn_frame ..⟩

/-- Settles O28: `getPixel_drawVline` for the pixels, `read_drawVline_ne` for the other bytes. -/
theorem vlineDrawsItsPixels : Obligations.VlineDrawsItsPixels := by
  intro s x y len on hc hm
  exact ⟨hasWord_of_encode rfl rfl, _, exec_vline x y len on s, fun _ _ h' => getPixel_drawVline hc hm h',
    fun _ ha => read_drawVline_ne hc hm ha, lineDrawn_frame ..⟩

/-! The lines of R85. -/

section
variable (c : Config) (x y : Int) (on : Bool) (m : Memory)

theorem drawHline_one : drawHline c x y 1 on m = setPixel c x y on m := by
  rw [drawHline, List.range_one, List.foldl_cons, List.foldl_nil, Nat.cast_zero, add_zero]

theorem drawVline_one : drawVline c x y 1 on m = setPixel c x y on m := by
  rw [drawVline, List.range_one, List.foldl_cons, List.foldl_nil, Nat.cast_zero, add_zero]

end

/-- Settles O30: either loop runs once, at (X, Y). -/
theorem onePixelLinesAreSetpx : Obligations.OnePixelLinesAreSetpx := by
  intro s x y on
  have hlen : (1#16).toNat = 1 := rfl
  refine ⟨_, _, _, exec_hline x y 1#16 on s, exec_vline x y 1#16 on s, exec_setpx x y on s, ?hline, ?vline⟩
  case hline => rw [hlen, drawHline_one]; rfl
  case vline => rw [hlen, drawVline_one]; rfl

/-! The top page: byte `a` is column `a`, and its bit `b` the pixel (a, b) (R36, R39). -/

theorem byteIndex_topRow (c : Config) (a : Nat) : byteIndex c a 0 = a := by
  simpa using byteIndex_mul_add 0 (b := 0) (by decide) c a

section
variable {c : Config} (hc : c.valid = true) {a b : Nat} (ha : a < c.width) (hb : b < 8)
include hc ha hb

theorem inBounds_topPage : inBounds c a b = true := by
  simpa using inBounds_mul_add hc (Config.pages_pos hc) ha hb

theorem getLsbD_read_topPage (m : Memory) : (m.read a).getLsbD b = getPixel c m a b := by
  simpa using (getPixel_mul_add hc m (Config.pages_pos hc) ha hb).symm

end

/-- A line across the top row of a clear framebuffer sets bit 0 of the top page's bytes (R85 item 1): it turns on the
pixels (a, 0) with a below WIDTH, and writes no other byte. -/
theorem read_drawHline_topRow {c : Config} (hc : c.valid = true) (m : Memory) (a : Nat) :
    (drawHline c 0 0 c.width true (clearFb c m)).read a = if a < c.width then 0x01#8 else 0x00#8 := by
  have hm : (clearFb c m).wf c.fbSize = true := clearFb_wf c m _
  split
  case isTrue ha =>
    refine BitVec.eq_of_getLsbD_eq fun b hb => ?_
    rw [getLsbD_read_topPage hc ha hb, getPixel_drawHline hc hm (inBounds_topPage hc ha hb), getPixel_clearFb]
    simp [ha]
  case isFalse ha =>
    rw [← read_clearFb c m a]
    refine read_drawHline_ne hc hm fun k hk _ => ?_
    rw [zero_add, byteIndex_topRow]
    omega

/-- Settles O29: WIDTH fits the LEN field (R7), and the line is `read_drawHline_topRow`. -/
theorem fullWidthLineFillsRowZero : Obligations.FullWidthLineFillsRowZero := by
  intro s hc hclear
  have hlen : (BitVec.ofNat 16 s.cfg.width).toNat = s.cfg.width := by
    obtain ⟨-, hwidth, -⟩ := Config.geometry hc
    exact Nat.mod_eq_of_lt (by omega)
  refine ⟨_, exec_hline .., ?_⟩
  rw [hlen, hclear]
  exact read_drawHline_topRow hc []

end Sys2Proof.Machine
end

section
/-! SUPPORT. Which characters have a glyph (R86), and one character's cell (R87, R88): its pixels, and the bytes of an
aligned one. -/

namespace Sys2Proof.Machine

/-! The glyph guard. -/

/-- The glyph of a character is entry `ch - 32` of the table, if there is one (R86). -/
theorem glyphOf_eq_some_iff {c : Config} {ch : Byte} {g : Glyph} :
    glyphOf c ch = some g ↔ 32 ≤ ch.toNat ∧ c.font[ch.toNat - 32]? = some g := by
  unfold glyphOf glyphIndex
  split
  case isTrue h =>
    have hidx : ((ch.toNat : Int) - 32).toNat = ch.toNat - 32 := by omega
    rw [hidx, and_iff_right (by omega)]
  case isFalse h => exact ⟨nofun, fun ⟨hle, _⟩ => absurd hle (by omega)⟩

/-- A character has a glyph exactly when its index is in the table (R86). -/
theorem glyphOf_isSome_iff {c : Config} {ch : Byte} :
    (glyphOf c ch).isSome = true ↔ 32 ≤ ch.toNat ∧ ch.toNat - 32 < c.font.length := by
  simp only [Option.isSome_iff_exists, glyphOf_eq_some_iff, exists_and_left]
  rw [← Option.isSome_iff_exists, isSome_getElem?]

/-- Settles O31: HasGlyph by `glyphOf_isSome_iff`, and a table has at most 96 entries (R8). -/
theorem glyphGuard : Obligations.GlyphGuard := by
  intro c ch hc
  obtain ⟨-, -, -, -, -, -, hfont, -⟩ := Config.valid_iff.1 hc
  refine ⟨?guard, fun g hg => (glyphOf_eq_some_iff.1 hg).2, fun hhigh => ?high⟩
  case guard =>
    rw [glyphOf_isSome_iff]
    omega
  case high =>
    rw [← Option.not_isSome_iff_eq_none, glyphOf_isSome_iff]
    omega

/-! One cell. -/

section
variable {c : Config} (hc : c.valid = true) {x y : Int} {ch : Byte} {g : Glyph} (hg : glyphOf c ch = some g)
  {m : Memory} (hm : m.wf c.fbSize = true)
include hc hg hm

/-- Row `j` of column `i` of a drawn cell is that bit of the column byte (R87, R88). -/
theorem getPixel_drawChar_cell {i j : Nat} (hi : i < 6) (hj : j < 8) (h : inBounds c (x + i) (y + j) = true) :
    getPixel c (drawChar c x y ch m) (x + i) (y + j) = (glyphColumn g i).getLsbD j := by
  have hcol : (x + i - x).toNat = i := by omega
  have hrow : (y + j - y).toNat = j := by omega
  rw [getPixel_drawChar hc hm h, hg]
  simp only [← glyphColumn_getLsbD, hcol, hrow]
  exact if_pos (by omega)

/-- A pixel that is at no row and column of the cell stays (R92). -/
theorem getPixel_drawChar_outside {x' y' : Int} (h : inBounds c x' y' = true)
    (hout : ∀ i j : Nat, i < 6 → j < 8 → ¬(x' = x + i ∧ y' = y + j)) :
    getPixel c (drawChar c x y ch m) x' y' = getPixel c m x' y' := by
  rw [getPixel_drawChar hc hm h, hg]
  refine if_neg fun hin => hout (x' - x).toNat (y' - y).toNat ?_ ?_ ?_ <;> omega

end

/-- From an aligned in-bounds pixel down, the eight rows of its page are in bounds and are the bits of its byte (R36). -/
theorem getPixel_alignedRow {c : Config} (hc : c.valid = true) (m : Memory) {x y : Int} (halign : y % 8 = 0)
    (h : inBounds c x y = true) {b : Nat} (hb : b < 8) :
    inBounds c x (y + b) = true ∧ getPixel c m x (y + b) = (m.read (byteIndex c x y)).getLsbD b := by
  have hin : inBounds c x (y + b) = true := by
    obtain ⟨-, -, -, -, hheight⟩ := Config.geometry hc
    rw [inBounds_iff] at h ⊢
    omega
  have hpage : page (y + b) = page y := by
    unfold page
    omega
  have hbit : bitNo (y + b) = b := by
    unfold bitNo
    omega
  refine ⟨hin, ?_⟩
  rw [getPixel_of_inBounds m hin, hbit, byteIndex, hpage]
  rfl

/-- Column `i` of a cell drawn at an aligned Y is the column byte itself (R88, R94). -/
theorem read_drawChar_aligned {c : Config} (hc : c.valid = true) {x y : Int} {ch : Byte} {g : Glyph}
    (hg : glyphOf c ch = some g) {m : Memory} (hm : m.wf c.fbSize = true) (halign : y % 8 = 0) {i : Nat} (hi : i < 6)
    (h : inBounds c (x + i) y = true) :
    (drawChar c x y ch m).read (byteIndex c (x + i) y) = glyphColumn g i := by
  refine BitVec.eq_of_getLsbD_eq fun b hb => ?_
  obtain ⟨hin, hbit⟩ := getPixel_alignedRow hc (drawChar c x y ch m) halign h hb
  rw [← hbit, getPixel_drawChar_cell hc hg hm hi hb hin]

end Sys2Proof.Machine
end

section
/-! SUPPORT. CHAR and STR complete (R89, R90): the state each ends in and what both leave alone, and the laws of R94. -/

namespace Sys2Proof.Machine

/-- `s` with the operand registers loaded, I and J left free and the framebuffer `m`, answering OK: where CHAR ends. -/
def State.charDrawn (s : State) (x y : Half) (ch : Byte) (m : Memory) : State :=
  { (s.loadOperands x y 0#16 ch).leaveIJ with fb := m }.respond .ok 0#16

/-- `s` with the operand registers and the text loaded, S, I and J left free and the framebuffer `m`, answering OK:
where an STR with zero padding ends. -/
def State.textDrawn (s : State) (x y : Half) (n : Byte) (text : List Byte) (m : Memory) : State :=
  { ((s.loadOperands x y (n.setWidth 16) 0#8).loadText text).leaveSIJ with fb := m }.respond .ok 0#16

/-- Only the operand registers, I, J and their draw, the framebuffer and the response differ. -/
theorem charDrawn_frame (s : State) (x y : Half) (ch : Byte) (m : Memory) :
    let t := s.charDrawn x y ch m
    t.operandsAre x y 0#16 ch ∧ t.ctr = { s.ctr with i := t.ctr.i, j := t.ctr.j } ∧ t.ctr.i ≤ 5 ∧ t.ctr.j ≤ 7
      ∧ t.txt = s.txt ∧ s.sameStatus t ∧ s.sameInputs t ∧ s.sameTransport t ∧ s.responded t .ok 0#16 :=
  ⟨⟨rfl, rfl, rfl, rfl⟩, rfl, freeCounter_le _ 2 5, freeCounter_le _ 3 7, rfl, ⟨rfl, rfl, rfl⟩,
    ⟨rfl, rfl, rfl, rfl, rfl, rfl, rfl⟩, ⟨rfl, rfl, rfl, rfl⟩, rfl, rfl⟩

/-- Only the operand registers, TXT, S, I, J and their draw, the framebuffer and the response differ. -/
theorem textDrawn_frame (s : State) (x y : Half) (n : Byte) (text : List Byte) (m : Memory) :
    let t := s.textDrawn x y n text m
    t.operandsAre x y (n.setWidth 16) 0#8 ∧ t.ctr = { s.ctr with s := t.ctr.s, i := t.ctr.i, j := t.ctr.j }
      ∧ t.ctr.s ≤ 255 ∧ t.ctr.i ≤ 5 ∧ t.ctr.j ≤ 7
      ∧ s.sameStatus t ∧ s.sameInputs t ∧ s.sameTransport t ∧ s.responded t .ok 0#16 :=
  ⟨⟨rfl, rfl, rfl, rfl⟩, rfl, freeCounter_le _ 1 255, freeCounter_le _ 2 5, freeCounter_le _ 3 7, ⟨rfl, rfl, rfl⟩,
    ⟨rfl, rfl, rfl, rfl, rfl, rfl, rfl⟩, ⟨rfl, rfl, rfl, rfl⟩, rfl, rfl⟩

theorem exec_char (x y : Half) (ch : Byte) (s : State) :
    exec (.char x y ch) s = .next (s.charDrawn x y ch (drawChar s.cfg (coord x) (coord y) ch s.fb)) := rfl

theorem exec_str_of_padded (x y : Half) {n : Byte} {payload : List Word64} (s : State)
    (h : badPadding n payload = false) :
    exec (.str x y n payload) s = .next (s.textDrawn x y n (textOf n payload)
      (drawText s.cfg (coord x) (coord y) 0 (textOf n payload) s.fb)) := by
  rw [exec, execStr, strState, if_neg (by simp [h])]
  rfl

theorem exec_strOf (x y : Half) {text : List Byte} (s : State) (h : text.length ≤ 255) :
    exec (Instr.strOf x y text) s = .next (s.textDrawn x y (BitVec.ofNat 8 text.length) text
      (drawText s.cfg (coord x) (coord y) 0 text s.fb)) := by
  have hn := toNat_ofNat_length h
  rw [Instr.strOf, exec_str_of_padded x y s (badPadding_packPayload hn), textOf_packPayload hn]

/-- Settles O32: `getPixel_drawChar` for the pixels, `read_drawChar_ne` for the other bytes. -/
theorem charDrawsItsCell : Obligations.CharDrawsItsCell := by
  intro s x y ch hc hm
  exact ⟨hasWord_of_encode rfl rfl, _, exec_char x y ch s, fun _ _ h => getPixel_drawChar hc hm h,
    fun _ ha => read_drawChar_ne hc hm ha, charDrawn_frame ..⟩

/-- Settles O33: `getPixel_drawText` for the pixels, `read_drawText_ne` for the other bytes. -/
theorem strDrawsItsText : Obligations.StrDrawsItsText := by
  intro s x y n payload hc hm hpad
  refine ⟨_, exec_str_of_padded x y s hpad, fun _ _ h => getPixel_drawText hc hm h,
    fun _ ha => read_drawText_ne hc hm ha, ?txt, textDrawn_frame ..⟩
  rw [← length_textOf n payload]
  rfl

/-- Settles O55: by the command, and for STR by its padding. -/
theorem textCommandsSendNothing : Obligations.TextCommandsSendNothing := by
  rintro _ s t (⟨x, y, ch, rfl⟩ | ⟨x, y, n, payload, rfl⟩) h
  · obtain rfl := Host.Outcome.next.inj ((exec_char x y ch s).symm.trans h)
    obtain ⟨-, -, -, -, -, ⟨hdcs, hbus, hill⟩, -, htr, -⟩ :=
      charDrawn_frame s x y ch (drawChar s.cfg (coord x) (coord y) ch s.fb)
    exact ⟨hdcs, hbus, htr, fun _ => hill⟩
  · cases hpad : badPadding n payload with
    | false =>
      obtain rfl := Host.Outcome.next.inj ((exec_str_of_padded x y s hpad).symm.trans h)
      obtain ⟨-, -, -, -, -, ⟨hdcs, hbus, hill⟩, -, htr, -⟩ := textDrawn_frame s x y n (textOf n payload)
        (drawText s.cfg (coord x) (coord y) 0 (textOf n payload) s.fb)
      exact ⟨hdcs, hbus, htr, fun _ => hill⟩
    | true =>
      obtain ⟨u, hu, -, hdcs, hbus, -, -, -, -, -, htr, -⟩ := strWithBadPaddingIsIllegal s x y n payload hpad
      obtain rfl := Host.Outcome.next.inj (hu.symm.trans h)
      exact ⟨hdcs, hbus, htr, fun hgood => absurd hpad (by simp [hgood x y n payload rfl])⟩

/-- Settles O36: columns 0 to 4 and 5 by `read_drawChar_aligned`. -/
theorem alignedCharCopiesColumns : Obligations.AlignedCharCopiesColumns := by
  intro s x y ch g hc hm halign _ _ hg
  refine ⟨_, exec_char x y ch s, fun i hi h => ?_,
    fun h => read_drawChar_aligned hc hg hm halign (i := 5) (by decide) h⟩
  exact (read_drawChar_aligned hc hg hm halign (by omega) h).trans (dif_pos hi)

/-! A text of one character. -/

theorem drawText_singleton (c : Config) (x y : Int) (ch : Byte) (m : Memory) :
    drawText c x y 0 [ch] m = drawChar c x y ch m := by
  simp only [drawText, Nat.cast_zero, mul_zero, add_zero]

theorem exec_strOf_singleton (x y : Half) (ch : Byte) (s : State) :
    exec (Instr.strOf x y [ch]) s
      = .next (s.textDrawn x y 1#8 [ch] (drawChar s.cfg (coord x) (coord y) ch s.fb)) := by
  rw [exec_strOf x y s (text := [ch]) (by simp), drawText_singleton]
  rfl

/-- Settles O34: both draw the one character. -/
theorem strOfOneCharacterIsChar : Obligations.StrOfOneCharacterIsChar :=
  fun s x y ch => ⟨_, _, exec_strOf_singleton x y ch s, exec_char x y ch s, rfl⟩

/-- Settles O54: the character's glyph is FONT[33], and the pixels are those of its cell. -/
theorem strOfAShowsItsGlyph : Obligations.StrOfAShowsItsGlyph := by
  intro s x y g hc hm hfont
  have hg : glyphOf s.cfg 65#8 = some g := glyphOf_eq_some_iff.2 ⟨by decide, hfont⟩
  refine ⟨_, exec_strOf_singleton x y 65#8 s, fun i j hi hj h => ?_,
    fun x' y' h => getPixel_drawChar_outside hc hg hm h⟩
  exact (getPixel_drawChar_cell hc hg hm hi hj h).trans (glyphColumn_getLsbD g i j)

/-! A text as the sequence of its characters (R94 item 3). -/

/-- Characters with their places in a text drawn in list order, place `k` at `x + 6 * k` (R90). -/
def drawCells (c : Config) (x y : Int) (cells : List (Byte × Nat)) (m : Memory) : Memory :=
  cells.foldl (fun m p => drawChar c (x + 6 * (p.2 : Int)) y p.1 m) m

theorem drawText_eq_drawCells (c : Config) (x y : Int) (n : Nat) (text : List Byte) (m : Memory) :
    drawText c x y n text m = drawCells c x y (text.zipIdx n) m := by
  induction text generalizing n m with
  | nil => rfl
  | cons ch text ih => exact ih (n + 1) _

/-- Cells that draw nothing can be left out. -/
theorem drawCells_filter {c : Config} {x y : Int} {keep : Byte × Nat → Bool}
    (h : ∀ p, keep p = false → ∀ m, drawChar c (x + 6 * (p.2 : Int)) y p.1 m = m) (cells : List (Byte × Nat))
    (m : Memory) : drawCells c x y (cells.filter keep) m = drawCells c x y cells m := by
  induction cells generalizing m with
  | nil => rfl
  | cons p cells ih =>
    cases hp : keep p with
    | true =>
      rw [List.filter_cons_of_pos hp]
      exact ih _
    | false =>
      rw [List.filter_cons_of_neg (by simp [hp]), ih]
      exact congrArg (drawCells c x y cells) (h p hp m).symm

/-- A character right of the panel draws nothing (R73). -/
theorem drawChar_of_width_le {c : Config} {x y : Int} (h : (c.width : Int) ≤ x) (ch : Byte) (m : Memory) :
    drawChar c x y ch m = m := by
  rw [drawChar_eq_paint]
  refine List.foldlRecOn (motive := (· = m)) _ _ rfl fun _ hm' p hp => ?_
  obtain ⟨g, -, i, j, -, -, rfl⟩ := mem_charPixels.1 hp
  rw [hm']
  exact setPixel_out _ m (Bool.eq_false_iff.2 fun hin => by
    have := inBounds_iff.1 hin
    simp only at this
    omega)

/-- A cell whose position does not fit the X field draws nothing on a panel that can be built (R7, R94). -/
theorem drawChar_of_not_fits {c : Config} (hc : c.valid = true) {x y : Int} (h : 32767 < x) (ch : Byte) (m : Memory) :
    drawChar c x y ch m = m := by
  obtain ⟨-, hwidth, -⟩ := Config.geometry hc
  exact drawChar_of_width_le (by omega) ch m

/-- The position of a cell that fits the X field is the field's value (R53). -/
theorem coord_add_ofNat {x : Half} {k : Nat} (h : coord x + 6 * (k : Int) ≤ 32767) :
    coord (x + BitVec.ofNat 16 (6 * k)) = coord x + 6 * (k : Int) := by
  unfold coord at *
  have hlow := BitVec.le_toInt x
  rw [BitVec.toInt_add, BitVec.toInt_ofNat', Int.add_bmod_bmod, Int.bmod_eq_of_le] <;> push_cast <;> omega

/-- The CHARs at cells that fit the X field complete, and draw the cells (R94). -/
theorem execAll_chars {x : Half} (y : Half) {cells : List (Byte × Nat)}
    (hfit : ∀ p ∈ cells, coord x + 6 * (p.2 : Int) ≤ 32767) (s : State) :
    ∃ u, execAll (cells.map fun p => Instr.char (x + BitVec.ofNat 16 (6 * p.2)) y p.1) s = .next u
      ∧ u.arch = { s.arch with fb := drawCells s.cfg (coord x) (coord y) cells s.fb } := by
  induction cells generalizing s with
  | nil => exact ⟨s, rfl, rfl⟩
  | cons p cells ih =>
    obtain ⟨hp, hcells⟩ := List.forall_mem_cons.1 hfit
    obtain ⟨u, hu, harch⟩ := ih hcells (s.charDrawn (x + BitVec.ofNat 16 (6 * p.2)) y p.1
      (drawChar s.cfg (coord x + 6 * (p.2 : Int)) (coord y) p.1 s.fb)).takeResponse
    refine ⟨u, ?_, harch⟩
    rw [List.map_cons, execAll, exec_char, coord_add_ofNat hp]
    exact hu

/-- Settles O35: STR draws all its cells, the CHARs those that fit, and the others draw nothing. -/
theorem strIsItsCharsInOrder : Obligations.StrIsItsCharsInOrder := by
  refine ⟨fun s x y text hlen hfit => ?allFit, fun s x y text hc hlen => ?someFit,
    fun c m x y k ch hc h => drawChar_of_not_fits hc h ch m⟩
  case allFit =>
    obtain ⟨u, hu, harch⟩ := execAll_chars y (cells := text.zipIdx)
      (fun p hp => hfit p.2 (List.snd_lt_of_mem_zipIdx hp)) s
    refine ⟨_, u, exec_strOf x y s hlen, hu, ?_⟩
    rw [harch, drawText_eq_drawCells]
    rfl
  case someFit =>
    obtain ⟨u, hu, harch⟩ := execAll_chars y (x := x)
      (cells := text.zipIdx.filter fun p => decide (coord x + 6 * (p.2 : Int) ≤ 32767))
      (fun p hp => of_decide_eq_true (List.mem_filter.1 hp).2) s
    refine ⟨_, u, exec_strOf x y s hlen, hu, ?_⟩
    rw [harch, drawText_eq_drawCells, drawCells_filter]
    · rfl
    · exact fun p hp m => drawChar_of_not_fits hc (not_le.1 (of_decide_eq_false hp)) p.1 m

end Sys2Proof.Machine
end

section
/-! SUPPORT. Which requests a command sends (R97, R98, R108, R111), and when it stops for want of a result (R120). -/

namespace Sys2Proof.Machine

/-- Settles O37: of the two ways a command ends, the one without a reset sent all its requests. -/
theorem requestsDoNotDependOnResults : Obligations.RequestsDoNotDependOnResults := by
  intro i s t h hres
  rcases exec_next_cases h with ⟨-, htx, -⟩ | ⟨sent, rest, d, -, -, rfl, -⟩
  · exact htx
  · exact absurd hres (applyReset_resets_ne (s.afterTransport sent none _ d 0))

/-- What a FLUSH that no reset met adds to the requests sent. -/
theorem flush_txOut_drop {s t : State} (h : exec .flush s = .next t) (hres : t.resets = s.resets) :
    t.txOut.drop s.txOut.length = flushRequests s.cfg s.fb := by
  rw [requestsDoNotDependOnResults .flush s t h hres, List.drop_left]
  rfl

/-- Settles O43: the end of a FLUSH touches neither FB, DCS nor ILL, and its requests are `flushRequests` of the
configuration and FB. -/
theorem flushIsAPureRead : Obligations.FlushIsAPureRead := by
  refine ⟨fun s t h hres => ?leavesBits, fun s s' t t' hcfg hfb h h' hres hres' => ?sameRequests⟩
  case leavesBits =>
    obtain ⟨o, d, f, rfl⟩ := runTransfer_completed h hres
    exact ⟨rfl, rfl, rfl⟩
  case sameRequests => rw [flush_txOut_drop h hres, flush_txOut_drop h' hres', hcfg, hfb]

/-! A transport that falls silent (R120). -/

/-- Requests of which one meets silence before all are answered wait for ever. -/
theorem runRequests_of_silent {reqs : List Request} {codes : List (BitVec 2)} {rest : List TrEvent} {s : State}
    (hl : s.trIn = codes.map TrEvent.result ++ .silent :: rest) (hlt : codes.length < reqs.length) :
    runRequests reqs s = .hung := by
  induction codes generalizing reqs s with
  | nil =>
    cases reqs with
    | nil => cases hlt
    | cons req reqs => rw [runRequests, transact_of_silent req hl]
  | cons code codes ih =>
    cases reqs with
    | nil => cases hlt
    | cons req reqs =>
      rw [runRequests, transact_of_result req hl]
      exact ih rfl (Nat.lt_of_succ_lt_succ hlt)

theorem runTransfer_of_silent {reqs : List Request} {codes : List (BitVec 2)} {rest : List TrEvent} {s : State}
    (finish : State → State) (hl : s.trIn = codes.map TrEvent.result ++ .silent :: rest)
    (hlt : codes.length < reqs.length) : runTransfer reqs finish s = .fault .transportSilent := by
  rw [runTransfer, runRequests_of_silent (s := s.clearFailures) hl hlt]

/-- A command faults only as a transfer does, so it is INIT or FLUSH on a silent transport. -/
theorem exec_fault {i : Instr} {s : State} {r : Fault} (h : exec i s = .fault r) :
    r = .transportSilent ∧ (i = .init ∨ i = .flush) ∧ TrEvent.silent ∈ s.trIn := by
  cases i with
  | init =>
    obtain ⟨hr, hsilent⟩ := runTransfer_fault h
    exact ⟨hr, .inl rfl, hsilent⟩
  | flush =>
    obtain ⟨hr, hsilent⟩ := runTransfer_fault h
    exact ⟨hr, .inr rfl, hsilent⟩
  | _ => cases h

/-- Settles O48: a command with a request left when silence comes is INIT or FLUSH, and both are transfers. -/
theorem onlyASilentTransportStopsACommand : Obligations.OnlyASilentTransportStopsACommand := by
  refine ⟨fun _ _ _ => exec_fault, fun _ _ _ => exec_not_refused, fun i s codes rest hl hlt => ?_⟩
  have hne : requestsOf i s ≠ [] := List.ne_nil_of_length_pos (Nat.zero_lt_of_lt hlt)
  obtain rfl | rfl := requestsOf_ne_nil hne
  · exact runTransfer_of_silent _ hl hlt
  · exact runTransfer_of_silent _ hl hlt

end Sys2Proof.Machine
end

section
/-! SUPPORT. INIT and STATUS complete (R100 to R102, R109): the state each ends in. -/

namespace Sys2Proof.Machine

theorem length_initRequests (c : Config) : (initRequests c).length = c.initSeq.length := List.length_map _

theorem length_resultsFrom_le (l : List TrEvent) (d n : Nat) : (resultsFrom l d n).length ≤ n := by
  induction n generalizing l d with
  | zero => simp [resultsFrom]
  | succ n ih =>
    cases l with
    | nil => exact Nat.succ_le_succ (ih [] (d + 1))
    | cons e rest =>
      cases e with
      | result code => exact Nat.succ_le_succ (ih rest d)
      | rst => exact Nat.zero_le _
      | silent => exact Nat.zero_le _

/-- At most every request fails (R96). -/
theorem failures_le (s : State) (n : Nat) : s.failures n ≤ n :=
  List.countP_le_length.trans (length_resultsFrom_le s.trIn s.trDraw n)

/-- Settles O38: INIT is `setActive`, `leaveK` and `finishTransfer` on the state after its answered requests, and its at
most 255 requests cannot saturate F. -/
theorem initSendsTheSequence : Obligations.InitSendsTheSequence := by
  refine ⟨hasWord_of_encode rfl rfl, fun s hv hans => ?_⟩
  obtain ⟨-, -, -, -, -, -, -, hpos, hle, -⟩ := Config.valid_iff.1 hv
  rw [← length_initRequests s.cfg] at hpos hle hans ⊢
  have hrun := runTransfer_of_answers_of_ne_nil (s := s.loadOperands 0#16 0#16 0#16 0#8)
    (finish := fun t => t.setActive.leaveK.finishTransfer) (List.ne_nil_of_length_pos hpos) hans
  have hmin : min (s.failures (initRequests s.cfg).length) 65535 = s.failures (initRequests s.cfg).length :=
    Nat.min_eq_left ((failures_le s _).trans (hle.trans (by decide)))
  obtain ⟨hbus, hrsp⟩ := finishTransfer_of_failures
    (s := ((s.loadOperands 0#16 0#16 0#16 0#8).afterAnswers (initRequests s.cfg)).setActive.leaveK)
    (n := s.failures (initRequests s.cfg).length) rfl
  rw [hmin] at hrsp
  refine ⟨_, hrun, rfl, rfl, hbus, rfl, ?counters, freeCounter_le _ 0 65535, hrsp, fun _ => rfl, ⟨rfl, rfl, rfl, rfl⟩,
    rfl, ⟨rfl, rfl, rfl, rfl, rfl, rfl, rfl⟩, rfl, rfl⟩
  case counters =>
    rw [← hmin]
    rfl

/-! STATUS. -/

theorem exec_status (s : State) : exec .status s = .next (s.answeredOk 0#16 0#16 0#8 s.fb s.statusWord) := rfl

/-- STATUS bits 2 to 0 are ILL, BUSERR and DCS (R20). -/
theorem statusWord_getLsbD (s : State) :
    (s.statusWord.getLsbD 0 = true ↔ s.dcs = .active) ∧ s.statusWord.getLsbD 1 = s.busErr
      ∧ s.statusWord.getLsbD 2 = s.ill := by
  simp only [State.statusWord, BitVec.getLsbD_append]
  refine ⟨?_, by simp, by simp⟩
  cases s.dcs <;> simp [Dcs.bit]

/-- Settles O45: STATUS answers `statusWord`, and the rest is the frame of `answeredOk`. -/
theorem statusReadsTheBits : Obligations.StatusReadsTheBits := by
  refine ⟨hasWord_of_encode rfl rfl, fun s => ⟨_, s.statusWord, exec_status s, answeredOk_responded .., ?_⟩⟩
  obtain ⟨hdcs, hbus, hill⟩ := statusWord_getLsbD s
  exact ⟨hdcs, hbus, hill, fun _ => statusWord_getLsbD_of_le s, fun _ => rfl, answeredOk_frame ..⟩

end Sys2Proof.Machine
end

section
/-! SUPPORT. The requests of a FLUSH by position (R103 to R106, R110): pages of equal length, one after the other. -/

namespace Sys2Proof.Machine

/-! Blocks of equal length. -/

section
variable {α : Type} {f : Nat → List α} {k : Nat} (hf : ∀ p, (f p).length = k)
include hf

theorem length_flatMap_range (n : Nat) : ((List.range n).flatMap f).length = k * n := by
  simp [List.length_flatMap, hf, Nat.mul_comm]

/-- Element `j` of block `p` stands at place `k * p + j`. -/
theorem getElem?_flatMap_range {n p j : Nat} (hp : p < n) (hj : j < k) :
    ((List.range n).flatMap f)[k * p + j]? = (f p)[j]? := by
  have hsplit : (List.range n).flatMap f
      = (List.range p).flatMap f ++ (f p ++ ((List.range (n - p - 1)).flatMap fun q => f (p + 1 + q))) := by
    obtain ⟨m, rfl⟩ : ∃ m, n = p + 1 + m := Nat.exists_eq_add_of_le hp
    simp [List.range_add, List.flatMap_map, Nat.add_assoc]
  rw [hsplit, List.getElem?_append_right (by simp [length_flatMap_range hf]), length_flatMap_range hf,
    Nat.add_sub_cancel_left, List.getElem?_append_left (by rw [hf]; exact hj)]

end

/-! The requests of a page in each transfer mode. -/

section
variable {c : Config} (m : Memory) (p : Nat)

theorem pageRequests_of_bulk (h : c.xferMode = .bulk) :
    pageRequests c m p
      = [.cmd (pageCommand p), .cmd c.colLo, .cmd c.colHi, .data (m.slice (p * c.width) c.width)] := by
  rw [pageRequests, h]
  rfl

theorem pageRequests_of_single (h : c.xferMode = .single) :
    pageRequests c m p = .cmd (pageCommand p) :: .cmd c.colLo :: .cmd c.colHi
      :: (m.slice (p * c.width) c.width).map fun b => .data [b] := by
  rw [pageRequests, h]
  rfl

theorem length_pageRequests_of_bulk (h : c.xferMode = .bulk) : (pageRequests c m p).length = 4 := by
  rw [pageRequests_of_bulk m p h]
  rfl

theorem length_pageRequests_of_single (h : c.xferMode = .single) : (pageRequests c m p).length = 3 + c.width := by
  rw [pageRequests_of_single m p h]
  simp only [Memory.slice, List.length_cons, List.length_map, List.length_range]
  omega

end

theorem Memory.getElem?_slice (m : Memory) {first count x : Nat} (h : x < count) :
    (m.slice first count)[x]? = some (m.read (first + x)) := by
  simp [slice, List.getElem?_range h]

/-- Settles O40: place `j` of page `p` in FLUSH's requests is place `j` of `pageRequests`. -/
theorem flushRequestsOneByOne : Obligations.FlushRequestsOneByOne := by
  intro c m _
  refine ⟨fun hmode => ?bulk, fun hmode => ?single⟩
  case bulk =>
    have hlen p := length_pageRequests_of_bulk m p hmode
    refine ⟨length_flatMap_range hlen c.pages, fun p hp => ?_⟩
    have hat {j : Nat} (hj : j < 4) := getElem?_flatMap_range hlen hp hj
    simp only [pageRequests_of_bulk m p hmode] at hat
    exact ⟨hat (j := 0) (by decide), hat (by decide), hat (by decide), hat (by decide)⟩
  case single =>
    have hlen p := length_pageRequests_of_single m p hmode
    refine ⟨length_flatMap_range hlen c.pages, fun p hp => ?_⟩
    have hat {j : Nat} (hj : j < 3 + c.width) := getElem?_flatMap_range hlen hp hj
    simp only [pageRequests_of_single m p hmode] at hat
    refine ⟨hat (j := 0) (by omega), hat (by omega), hat (by omega), fun x hx => ?_⟩
    rw [Nat.add_assoc, flushRequests, hat (by omega), Nat.add_comm 3 x]
    simp [Memory.getElem?_slice m hx]

/-! The page command byte. -/

/-- A panel has at most 16 pages (R6, R7). -/
theorem Config.pages_le {c : Config} (hc : c.valid = true) : c.pages ≤ 16 := by
  have := Config.geometry hc
  have := Config.height_eq hc
  omega

/-- The page command of a page that fits four bits takes no carry (R106). -/
theorem pageCommand_toNat {p : Nat} (hp : p < 16) : (pageCommand p).toNat = 0xB0 + p := by
  rw [pageCommand, BitVec.toNat_ofNat, Nat.mod_eq_of_lt (by omega)]

/-- Settles O41: `pageCommand_toNat` for a page of a valid panel, and the eight default pages by evaluation. -/
theorem pageCommandBytes : Obligations.PageCommandBytes := by
  refine ⟨fun c p hc hp => ?_, by decide⟩
  have := Config.pages_le hc
  rw [pageCommand_toNat (by omega)]
  omega

end Sys2Proof.Machine
end

section
/-! SUPPORT. The bytes of a FLUSH with their kinds (R70, R108 item 4): the same in both transfer modes. -/

namespace Sys2Proof.Machine

/-! The tagged bytes of a list of requests hold its command bytes and its data bytes. -/

theorem cmdBytes_eq_filter_taggedBytes (reqs : List Request) :
    cmdBytes reqs = ((taggedBytes reqs).filter (·.1 == 0#1)).map Prod.snd := by
  simp only [cmdBytes, taggedBytes, List.filter_flatMap, List.map_flatMap]
  congr 1
  funext req
  cases req <;> simp [Request.payload, Request.kind]

theorem dataBytes_eq_filter_taggedBytes (reqs : List Request) :
    dataBytes reqs = ((taggedBytes reqs).filter (·.1 == 1#1)).map Prod.snd := by
  simp only [dataBytes, taggedBytes, List.filter_flatMap, List.map_flatMap]
  congr 1
  funext req
  cases req <;> simp [Request.payload, Request.kind, List.filter_map, Function.comp_def]

theorem taggedBytes_flatMap {α : Type} (l : List α) (f : α → List Request) :
    taggedBytes (l.flatMap f) = l.flatMap fun a => taggedBytes (f a) := List.flatMap_assoc

/-- Either transfer mode sends the bytes it is given as data bytes, in order (R110). -/
theorem taggedBytes_dataRequests (mode : XferMode) (bytes : List Byte) :
    taggedBytes (dataRequests mode bytes) = bytes.map fun b => (1#1, b) := by
  cases mode with
  | bulk => exact List.append_nil _
  | single => simp [dataRequests, taggedBytes, List.flatMap_map, Request.payload, Request.kind, ← List.map_eq_flatMap]

/-- The bytes of a page, without regard to the transfer mode (R103, R104). -/
theorem taggedBytes_pageRequests (c : Config) (m : Memory) (p : Nat) :
    taggedBytes (pageRequests c m p)
      = [(0#1, pageCommand p), (0#1, c.colLo), (0#1, c.colHi)]
        ++ (m.slice (p * c.width) c.width).map fun b => (1#1, b) := by
  rw [← taggedBytes_dataRequests c.xferMode]
  rfl

/-- The bytes of a FLUSH do not depend on the transfer mode (R108 item 4). -/
theorem taggedBytes_flushRequests_withMode (c : Config) (m : Memory) (mode : XferMode) :
    taggedBytes (flushRequests { c with xferMode := mode } m) = taggedBytes (flushRequests c m) := by
  simp only [flushRequests, taggedBytes_flatMap, taggedBytes_pageRequests]
  rfl

/-- Settles O44: the tagged bytes agree, and the command bytes and the data bytes are read off them. -/
theorem transferModesAgree : Obligations.TransferModesAgree := by
  intro c m _
  simp only [cmdBytes_eq_filter_taggedBytes, dataBytes_eq_filter_taggedBytes, taggedBytes_flushRequests_withMode,
    and_self]

end Sys2Proof.Machine
end

section
/-! SUPPORT. Every command completes (R142): it ends, without a reset, once the transport answers its requests. -/

namespace Sys2Proof.Machine

/-- No command made of requests is reset while the transport answers them (R97). -/
theorem runTransfer_of_answers_resets {reqs : List Request} {finish : State → State} {s : State}
    (hfinish : ∀ t, (finish t).resets = t.resets) (h : s.transportAnswers reqs.length = true) :
    ∃ t, runTransfer reqs finish s = .next t ∧ t.resets = s.resets :=
  ⟨_, runTransfer_of_answers h, hfinish _⟩

/-- An STR is not reset, whatever its padding (R90). -/
theorem strState_resets (x y : Half) (n : Byte) (payload : List Word64) (s : State) :
    (strState x y n payload s).resets = s.resets := by
  unfold strState
  split <;> rfl

/-- Only INIT and FLUSH wait for the transport; every other command completes in any state. -/
theorem exec_of_answers {i : Instr} {s : State} (h : s.transportAnswers (requestsOf i s).length = true) :
    ∃ t, exec i s = .next t ∧ t.resets = s.resets := by
  cases i with
  | clear => exact ⟨_, exec_clear s, rfl⟩
  | setpx x y on => exact ⟨_, exec_setpx x y on s, rfl⟩
  | getpx x y => exact ⟨_, exec_getpx x y s, rfl⟩
  | hline x y len on => exact ⟨_, exec_hline x y len on s, rfl⟩
  | vline x y len on => exact ⟨_, exec_vline x y len on s, rfl⟩
  | char x y ch => exact ⟨_, exec_char x y ch s, rfl⟩
  | str x y n payload => exact ⟨_, rfl, strState_resets x y n payload s⟩
  | init => exact runTransfer_of_answers_resets (s := s.loadOperands 0#16 0#16 0#16 0#8) (fun _ => rfl) h
  | flush => exact runTransfer_of_answers_resets (s := s.loadOperands 0#16 0#16 0#16 0#8) (fun _ => rfl) h
  | status => exact ⟨_, exec_status s, rfl⟩

/-- Settles O51: the command ends by `exec_of_answers`, and with one response by `exec_responded`. -/
theorem everyCommandTerminates : Obligations.EveryCommandTerminates := by
  intro i s h
  obtain ⟨t, hexec, hres⟩ := exec_of_answers h
  obtain ⟨code, data, hresp⟩ := exec_responded hexec hres
  exact ⟨t, code, data, hexec, hres, hresp⟩

end Sys2Proof.Machine
end
